-- ==== Sys2Proof/Word.lean ====
section
/-! DEFINITION. The word types of CKACC: bytes, the 16-bit operands of the command port and the
record counters (00_scope.md R12, R14; 30_encoding.md R76). Every value is unsigned. -/

namespace Sys2Proof

/-- An unsigned 8-bit value (R14): data bytes, characters (R16), opcodes, register values. -/
abbrev Byte := BitVec 8

/-- An unsigned 16-bit operand of the command port (R76). -/
abbrev Half := BitVec 16

/-- A record counter: `CNT_WIDTH` = 32 bits, counting modulo 2^32 (R12, R27, R28). -/
abbrev Count := BitVec 32

end Sys2Proof
end

