-- ==== Sys2Proof/Config.lean ====
section
/-! DEFINITION. The parameters of an instance of CKACC (00_scope.md R5 to R12, 20_memory.md R58). A parameter is fixed when the block is instantiated; no command and
no reset changes one. The two OPEN parameters are constants without a body. -/

namespace Sys2Proof

/-- `VALIDATION_MODE` (R10): which second checksum the validation compares against (R129). -/
inductive ValidationMode where
  /-- encoding 0, the default: compare with derivation B of the running sum -/
  | crossB
  /-- encoding 1: compare with derivation A of the running sum -/
  | asBuilt
deriving DecidableEq, Repr

/-- The open parameter `CSA_ZERO` (R11, D7): derivation A of 0. No body: no proof can see its value.
Assumption log entry 2. -/
opaque openCsaZero : Byte

/-- The open parameter `PORT_BASE` (R58): no rule of the spec reads it. Assumption log entry 3. -/
opaque openPortBase : Nat

/-- The parameters of one instance. The defaults are the spec's values; the two open parameters have
none. -/
structure Config where
  /-- `RECORD_LEN` (R5): the only line length that is processed -/
  recordLen : Nat := 43
  /-- `HDR0` (R8) -/
  hdr0 : Byte := 0x41#8
  /-- `HDR1` (R8) -/
  hdr1 : Byte := 0x10#8
  /-- `I2C_ADDR` (R9) -/
  i2cAddr : Byte := 0x08#8
  /-- `VALIDATION_MODE` (R10) -/
  mode : ValidationMode := .crossB
  /-- `CSA_ZERO` (R11) -/
  csaZero : Byte
  /-- `PORT_BASE` (R58) -/
  portBase : Nat
deriving DecidableEq, Repr

/-- The reference instance: every parameter at the spec's value, the open ones left open. -/
def Config.reference : Config := { csaZero := openCsaZero, portBase := openPortBase }

/-- The legal domain of `RECORD_LEN`: the odd integers 11 to 255 (R5, D29). -/
def Config.legal (cfg : Config) : Bool :=
  11 ≤ cfg.recordLen && cfg.recordLen ≤ 255 && cfg.recordLen % 2 == 1

end Sys2Proof
end

