-- ==== Sys2Proof/Machine/Sizes.lean ====
section
/-! DEFINITION. The fixed constants of the record format (00_scope.md R6) and the sizes derived from
`RECORD_LEN` (R7). -/

namespace Sys2Proof

/-- `PREFIX_LEN` (R6): the leading characters that are dropped. -/
def prefixLen : Nat := 9

/-- `SUFFIX_LEN` (R6): the trailing characters that are dropped. -/
def suffixLen : Nat := 2

/-- `N_PAY_CHARS` (R7). -/
def Config.nPayChars (cfg : Config) : Nat := cfg.recordLen - prefixLen - suffixLen

/-- `N_DATA` (R7): the data bytes of a record. -/
def Config.nData (cfg : Config) : Nat := cfg.nPayChars / 2

/-- `N_SUM` (R7): the summed bytes of a record, and the number of `DIAG_SEQ` registers (R25). -/
def Config.nSum (cfg : Config) : Nat := 2 + cfg.nData

/-- `N_OUT` (R7): the bytes of an output record. -/
def Config.nOut (cfg : Config) : Nat := 3 + cfg.nData + 1

end Sys2Proof
end

