-- ==== Sys2Proof/Machine/State.lean ====
section
/-! DEFINITION. The state of CKACC (10_state.md R20 to R29), its reset values (R36), the responses of the
response port (30_encoding.md R80, R81) and the reasons a step can stop. Plain data throughout. -/

namespace Sys2Proof.Machine

open Sys2Proof

/-- `PHASE` (R22): the process-level state machine. The fourth 2-bit value is never held. -/
inductive Phase where
  /-- 0: lines are processed -/
  | run
  /-- 1: terminal; lines are ignored -/
  | abort
  /-- 2: input finished; lines are ignored -/
  | finished
deriving DecidableEq, Repr

/-- `ABORT_CAUSE` (R23). Every other 4-bit value is never held. -/
inductive AbortCause where
  /-- 0x0: no abort since reset -/
  | none
  /-- 0x3: the two derived checksums disagreed -/
  | mismatch
  /-- 0x4: a payload character was not a hex digit -/
  | badHex
deriving DecidableEq, Repr

/-- A response (R81), with the payload its code fixes. -/
inductive Response where
  /-- 0x00 `OK` -/
  | ok
  /-- 0x01 `SKIPPED` -/
  | skipped
  /-- 0x02 `EMITTED`: the output record -/
  | emitted (out : List Byte)
  /-- 0x03 `MISMATCH`: s, cs, cs2 -/
  | mismatch (s cs cs2 : Byte)
  /-- 0x04 `BAD_HEX`: the first bad character index -/
  | badHex (k : Byte)
  /-- 0x05 `IGNORED` -/
  | ignored
  /-- 0x06 `VALUE`: the value's bytes, little-endian -/
  | value (bytes : List Byte)
  /-- 0x07 `ILLEGAL_CMD`: the opcode -/
  | illegalCmd (op : Byte)
  /-- 0x08 `BAD_OPERAND`: the opcode -/
  | badOperand (op : Byte)
deriving DecidableEq, Repr

/-- The architectural state elements: exactly the list of R20. -/
structure Elements where
  /-- `PHASE` (R22) -/
  phase : Phase
  /-- `ABORT_CAUSE` (R23) -/
  abortCause : AbortCause
  /-- `DIAG_VALID` (R24) -/
  diagValid : Bool
  /-- `DIAG_SEQ[0..N_SUM-1]` (R25) -/
  diagSeq : List Byte
  /-- `DIAG_SUM` (R26) -/
  diagSum : Byte
  /-- `DIAG_CS` (R26) -/
  diagCs : Byte
  /-- `DIAG_CS2` (R26) -/
  diagCs2 : Byte
  /-- `BAD_POS` (R29) -/
  badPos : Byte
  /-- `EMIT_COUNT` (R27) -/
  emitCount : Count
  /-- `SKIP_COUNT` (R28) -/
  skipCount : Count
deriving DecidableEq, Repr

/-- The reset value of every element (R36); `DIAG_SEQ` has `N_SUM` elements. -/
def Elements.reset (cfg : Config) : Elements where
  phase := .run
  abortCause := .none
  diagValid := false
  diagSeq := List.replicate cfg.nSum 0#8
  diagSum := 0#8
  diagCs := 0#8
  diagCs2 := 0#8
  badPos := 0#8
  emitCount := 0#32
  skipCount := 0#32

/-- The machine: its parameters, its architectural elements, and the two streams of the command port. -/
structure State where
  /-- the parameters of the instance; no step changes them (R37; assumption log entry 1) -/
  cfg : Config
  /-- the architectural elements (R20) -/
  regs : Elements
  /-- the command bytes that have arrived and are not consumed (R50, R74; entry 5) -/
  port : List Byte
  /-- the hardware resets still to act, oldest first, each with the bytes that arrive after it and before
  the next one (R240, R83; entries 5 and 8) -/
  pendingResets : List (List Byte)
  /-- the responses produced so far, oldest first (R80, R63; entries 5 and 6) -/
  sent : List Response
  /-- how many responses had been produced when the last reset acted: the output of the present run begins
  behind them (R249; entry 6). The model's own mark, which no command reads. -/
  sentAtReset : Nat
deriving DecidableEq, Repr

/-- Why a step does not happen. Both are the spec's stuck outcome: nothing changed, nothing answered. -/
inductive Fault where
  /-- Raised by the step when no byte is on the port and no hardware reset is pending: there is no next
  command to take (R170), and the block holds its state (R225). Safe: the model stops where the hardware
  waits. Assumption log entry 7. -/
  | noCommand
  /-- Raised by the step when the bytes on the port end inside a command and no hardware reset is pending:
  an incomplete command has no step (R82). Safe: the model stops where the hardware waits. -/
  | incompleteCommand
deriving DecidableEq, Repr

/-- Why the model gives no meaning. -/
inductive Refusal where
  /-- Raised by an arm of exec for a command that has no meaning yet. No arm does. Safe. -/
  | notModelled (mnemonic : String)
deriving DecidableEq, Repr

/-- The outcome of a command. -/
abbrev Result := Host.Outcome State Fault Refusal

/-- The machine right after reset (R241, R36): the reference instance, every element at its reset value,
nothing received and nothing sent (entry 5). -/
def State.reset : State where
  cfg := Config.reference
  regs := Elements.reset Config.reference
  port := []
  pendingResets := []
  sent := []
  sentAtReset := 0

end Sys2Proof.Machine
end

