-- ==== Sys2Proof/Machine/Flags.lean ====
section
/-! DEFINITION. Status fields and their codes (10_state.md R22, R23, R30). CKACC has no condition codes and
no arithmetic flags: the carry out of the sum is discarded (R34, R121). The only status word is the
read-only view `STATUS`. -/

namespace Sys2Proof.Machine

open Sys2Proof

/-- The 2-bit code of `PHASE` (R22). -/
def Phase.code : Phase → BitVec 2
  | .run => 0#2
  | .abort => 1#2
  | .finished => 2#2

/-- The 4-bit code of `ABORT_CAUSE` (R23). -/
def AbortCause.code : AbortCause → BitVec 4
  | .none => 0x0#4
  | .mismatch => 0x3#4
  | .badHex => 0x4#4

/-- `STATUS` (R30): `ABORT_CAUSE` in [7:4], 0 in [3], `DIAG_VALID` in [2], `PHASE` in [1:0]. -/
def statusByte (e : Elements) : Byte :=
  e.abortCause.code ++ 0#1 ++ BitVec.ofBool e.diagValid ++ e.phase.code

/-- The code of `VALIDATION_MODE` that `CFG_MODE` reads (R10, R31). -/
def modeByte : ValidationMode → Byte
  | .crossB => 0#8
  | .asBuilt => 1#8

end Sys2Proof.Machine
end

