-- ==== Sys2Proof/Machine/Operands.lean ====
section
/-! DEFINITION. Operand domains (30_encoding.md R79) and the register index space that `RDREG` reads
(10_state.md R30 to R33, 20_memory.md R51, R53). Every register is read-only; nothing here writes. -/

namespace Sys2Proof.Machine

open Sys2Proof

/-- The names of the register index space (R32). -/
inductive Register where
  /-- index 0x00 -/
  | status
  /-- index 0x01 -/
  | diagSum
  /-- index 0x02 -/
  | diagCs
  /-- index 0x03 -/
  | diagCs2
  /-- index 0x04 -/
  | badPos
  /-- index 0x05 -/
  | emitCount
  /-- index 0x06 -/
  | skipCount
  /-- index 0x08 -/
  | cfgReclen
  /-- index 0x09 -/
  | cfgHdr0
  /-- index 0x0A -/
  | cfgHdr1
  /-- index 0x0B -/
  | cfgI2c
  /-- index 0x0C -/
  | cfgMode
  /-- index 0x0D -/
  | cfgCsaz
  /-- index 0x40 + i, for i below `N_SUM` -/
  | diagSeq (i : Nat)
deriving DecidableEq, Repr

/-- The index where `DIAG_SEQ` begins (R32). -/
def diagSeqBase : Nat := 0x40

/-- The register an index selects, none where the index is unassigned (R32). -/
def registerAt (cfg : Config) (idx : Byte) : Option Register :=
  match idx.toNat with
  | 0x00 => some .status
  | 0x01 => some .diagSum
  | 0x02 => some .diagCs
  | 0x03 => some .diagCs2
  | 0x04 => some .badPos
  | 0x05 => some .emitCount
  | 0x06 => some .skipCount
  | 0x08 => some .cfgReclen
  | 0x09 => some .cfgHdr0
  | 0x0A => some .cfgHdr1
  | 0x0B => some .cfgI2c
  | 0x0C => some .cfgMode
  | 0x0D => some .cfgCsaz
  | n => if diagSeqBase ≤ n ∧ n < diagSeqBase + cfg.nSum then some (.diagSeq (n - diagSeqBase)) else none

/-- A register's width in bytes (R32, R51). -/
def Register.width : Register → Nat
  | .emitCount => 4
  | .skipCount => 4
  | .status | .diagSum | .diagCs | .diagCs2 | .badPos => 1
  | .cfgReclen | .cfgHdr0 | .cfgHdr1 | .cfgI2c | .cfgMode | .cfgCsaz => 1
  | .diagSeq _ => 1

/-- A register's current value as an unsigned number (R25 to R31). -/
def Register.read (cfg : Config) (e : Elements) : Register → Nat
  | .status => (statusByte e).toNat
  | .diagSum => e.diagSum.toNat
  | .diagCs => e.diagCs.toNat
  | .diagCs2 => e.diagCs2.toNat
  | .badPos => e.badPos.toNat
  | .emitCount => e.emitCount.toNat
  | .skipCount => e.skipCount.toNat
  | .cfgReclen => cfg.recordLen
  | .cfgHdr0 => cfg.hdr0.toNat
  | .cfgHdr1 => cfg.hdr1.toNat
  | .cfgI2c => cfg.i2cAddr.toNat
  | .cfgMode => (modeByte cfg.mode).toNat
  | .cfgCsaz => cfg.csaZero.toNat
  | .diagSeq i => (e.diagSeq.getD i 0#8).toNat

/-- The w low bytes of a value, little-endian (R53). -/
def littleEndian : Nat → Nat → List Byte
  | 0, _ => []
  | w + 1, v => BitVec.ofNat 8 v :: littleEndian w (v / 256)

/-- One atomic snapshot of a whole register as the bytes `RDREG` answers (R56, R175). -/
def Register.snapshot (cfg : Config) (e : Elements) (r : Register) : List Byte :=
  littleEndian r.width (r.read cfg e)

/-- `RSUM`'s domain (R79): a sequence of length 0 has no last element. -/
def rsumInDomain (b : List Byte) : Bool := !b.isEmpty

/-- `CSA`'s domain (R79): 0 to 256. -/
def csaInDomain (v : Half) : Bool := v.toNat ≤ 256

end Sys2Proof.Machine
end

