-- ==== Sys2Proof/Syntax.lean ====
section
/-! DEFINITION. The commands of the command port (30_encoding.md R75): one constructor per row of
spec/opcode_table.json. Opcodes without a row are illegal (R78) and are no commands; the decoder names
them and the step answers them. -/

namespace Sys2Proof

/-- A complete command with its operands (R76). The length field n of `LINE` and `RSUM` is the length of
the list that follows it. -/
inductive Instr where
  /-- `RESET`, opcode 0x01 (R171) -/
  | reset
  /-- `LINE`, opcode 0x02 (R172): the characters c[0..n-1] of one input line -/
  | line (c : List Byte)
  /-- `FINISH`, opcode 0x03 (R174) -/
  | finish
  /-- `RDREG`, opcode 0x04 (R175): a register index -/
  | rdreg (idx : Byte)
  /-- `RSUM`, opcode 0x05 (R176): the sequence b[0..n-1] -/
  | rsum (b : List Byte)
  /-- `CSA`, opcode 0x06 (R177): the 16-bit operand v -/
  | csa (v : Half)
  /-- `CSB`, opcode 0x07 (R178): the 8-bit operand v -/
  | csb (v : Byte)
deriving DecidableEq, Repr

end Sys2Proof
end

