-- ==== Sys2Proof/WellFormed.lean ====
section
/-! DEFINITION. Which commands have an encoding (30_encoding.md R76): the length field of `LINE` and
`RSUM` is 16 bits wide, so their operand has at most 65535 bytes (R101, D30). Every other operand field
is as wide as its type. Operand values outside a command's domain (R79) are encodable and are answered
by the command, so they are no matter of well-formedness. -/

namespace Sys2Proof

/-- The bound of a 16-bit length field (R76: n in 0..65535). -/
def fitsLength (n : Nat) : Bool := n < 65536

/-- The command has an encoding on the command port. -/
def Instr.wf : Instr → Bool
  | .reset => true
  | .line c => fitsLength c.length
  | .finish => true
  | .rdreg _ => true
  | .rsum b => fitsLength b.length
  | .csa _ => true
  | .csb _ => true

end Sys2Proof
end

