-- ==== Sys2Proof/Decode.lean ====
section
/-! DEFINITION. The command-port framing (30_encoding.md R74 to R78, R86): the decoder from a byte stream
to a command, and the encoder. The decoder is total: a stream holds a complete command first, an illegal
opcode first, or no complete command. The host's numbering of an opcode-table word stands at the end. -/

namespace Sys2Proof

/-- A 16-bit field assembled little-endian (R53, R77): `byte[lo] + 256 * byte[lo+1]`. -/
def le16 (lo hi : Byte) : Nat := lo.toNat + 256 * hi.toNat

/-- The low byte of a 16-bit field, first in the stream (R53). -/
def lowByte (n : Nat) : Byte := BitVec.ofNat 8 n

/-- The high byte of a 16-bit field, second in the stream (R53). -/
def highByte (n : Nat) : Byte := BitVec.ofNat 8 (n / 256)

/-- What stands first in a byte stream. -/
inductive Decoded where
  /-- a complete command, and the stream after it (R74) -/
  | command (i : Instr) (rest : List Byte)
  /-- an illegal opcode, which takes one byte, and the stream after it (R78) -/
  | illegal (op : Byte) (rest : List Byte)
  /-- no complete command: the stream is empty or ends inside a command (R82) -/
  | incomplete
deriving DecidableEq, Repr

/-- An operand of one byte at byte 1 (`RDREG`, `CSB`; R76). -/
def decodeByteOperand (mk : Byte → Instr) : List Byte → Decoded
  | v :: rest => .command (mk v) rest
  | [] => .incomplete

/-- A 16-bit operand at bytes 1-2 (`CSA`; R76). -/
def decodeHalfOperand (mk : Half → Instr) : List Byte → Decoded
  | lo :: hi :: rest => .command (mk (BitVec.ofNat 16 (le16 lo hi))) rest
  | _ => .incomplete

/-- A 16-bit length n at bytes 1-2 and n bytes after it (`LINE`, `RSUM`; R76). -/
def decodeCounted (mk : List Byte → Instr) : List Byte → Decoded
  | lo :: hi :: body =>
    if le16 lo hi ≤ body.length then
      .command (mk (body.take (le16 lo hi))) (body.drop (le16 lo hi))
    else .incomplete
  | _ => .incomplete

/-- The opcode map (R75). It reads no state: the same opcode always decodes the same way (R74). -/
def decode : List Byte → Decoded
  | [] => .incomplete
  | op :: rest =>
    match op.toNat with
    | 0x01 => .command .reset rest
    | 0x02 => decodeCounted .line rest
    | 0x03 => .command .finish rest
    | 0x04 => decodeByteOperand .rdreg rest
    | 0x05 => decodeCounted .rsum rest
    | 0x06 => decodeHalfOperand .csa rest
    | 0x07 => decodeByteOperand .csb rest
    | _ => .illegal op rest

/-- The length of a command from its first bytes (R86); none while the bytes seen do not fix it. -/
def commandLength : List Byte → Option Nat
  | [] => none
  | op :: rest =>
    match op.toNat with
    | 0x02 | 0x05 =>
      match rest with
      | lo :: hi :: _ => some (3 + le16 lo hi)
      | _ => none
    | 0x04 | 0x07 => some 2
    | 0x06 => some 3
    | _ => some 1

/-- The length field and bytes of a counted operand (R76). -/
def encodeCounted (b : List Byte) : List Byte := lowByte b.length :: highByte b.length :: b

/-- The bytes of a command on the command port (R75, R76). -/
def encode : Instr → List Byte
  | .reset => [0x01#8]
  | .line c => 0x02#8 :: encodeCounted c
  | .finish => [0x03#8]
  | .rdreg idx => [0x04#8, idx]
  | .rsum b => 0x05#8 :: encodeCounted b
  | .csa v => [0x06#8, lowByte v.toNat, highByte v.toNat]
  | .csb v => [0x07#8, v]

/-- Byte k of an instruction word numbered as spec/opcode_table.json numbers it: bits 8k+7..8k of `w`,
with every bit from `nbits` up taken as 0. -/
def tableByte (nbits w k : Nat) : Byte := BitVec.ofNat 8 ((w % 2 ^ nbits) / 2 ^ (8 * k))

/-- The bytes of the command whose bits are `w`, first byte first: as many as its opcode and length field
call for (R86), zeros above `nbits`. -/
def tableBytes (nbits w : Nat) : List Byte :=
  let byteAt := tableByte nbits w
  match commandLength [byteAt 0, byteAt 1, byteAt 2] with
  | some n => (List.range n).map byteAt
  | none => []

/-- The command the decoder reads from an instruction whose bits are `w`, none where it refuses. -/
def decodeTableWord (nbits w : Nat) : Option Instr :=
  match decode (tableBytes nbits w) with
  | .command i _ => some i
  | .illegal _ _ => none
  | .incomplete => none

end Sys2Proof
end

