-- ==== Sys2Proof/Machine/ArrayEmitter.lean ====
section
/-! DEFINITION. The Array Emitter's output record (42_array_emitter.md R150) and the bytes of a response on
the response port (30_encoding.md R80, R81). -/

namespace Sys2Proof.Machine

open Sys2Proof

/-- The output record (R150). -/
def emit (cfg : Config) (d : List Byte) (cs : Byte) : List Byte :=
  [cfg.i2cAddr, cfg.hdr0, cfg.hdr1] ++ d ++ [cs]

/-- The response code (R81). -/
def Response.code : Response → Byte
  | .ok => 0x00#8
  | .skipped => 0x01#8
  | .emitted _ => 0x02#8
  | .mismatch _ _ _ => 0x03#8
  | .badHex _ => 0x04#8
  | .ignored => 0x05#8
  | .value _ => 0x06#8
  | .illegalCmd _ => 0x07#8
  | .badOperand _ => 0x08#8

/-- The payload after the code (R81). -/
def Response.payload : Response → List Byte
  | .ok => []
  | .skipped => []
  | .emitted out => out
  | .mismatch s cs cs2 => [s, cs, cs2]
  | .badHex k => [k]
  | .ignored => []
  | .value bytes => bytes
  | .illegalCmd op => [op]
  | .badOperand op => [op]

/-- The bytes of a response on the response port (R80). -/
def Response.bytes (r : Response) : List Byte := r.code :: r.payload

/-- The fatal responses, which enter `ABORT` (R210). -/
def Response.fatal : Response → Bool
  | .mismatch _ _ _ => true
  | .badHex _ => true
  | .ok | .skipped | .emitted _ | .ignored | .value _ | .illegalCmd _ | .badOperand _ => false

/-- The output record a response carries, if it carries one (R151, R152). -/
def Response.record : Response → Option (List Byte)
  | .emitted out => some out
  | .ok | .skipped | .mismatch _ _ _ | .badHex _ | .ignored | .value _ | .illegalCmd _ | .badOperand _ => none

/-- All bytes that have left the response port, in order (R50, R63). -/
def State.sentBytes (s : State) : List Byte := s.sent.flatMap Response.bytes

/-- The output records that have left the response port, in order (R63, R152). -/
def State.sentRecords (s : State) : List (List Byte) := s.sent.filterMap Response.record

/-- The output records since the last reset, in order (70_reset_and_hazards.md R249): those of the responses
behind the mark that the reset left. Exact for any number of records: no counter is read. -/
def State.recordsSinceReset (s : State) : List (List Byte) :=
  (s.sent.drop s.sentAtReset).filterMap Response.record

end Sys2Proof.Machine
end

