-- ==== Sys2Proof/Machine/ChecksumEngine.lean ====
section
/-! DEFINITION. The Checksum Engine (41_checksum_engine.md): the accumulator, derivations A and B, and the
validation. Pure functions of the bytes and the parameters (R135). -/

namespace Sys2Proof.Machine

open Sys2Proof

/-- The exact integer sum of a sequence of bytes (R122). -/
def exactSum (bs : List Byte) : Nat := (bs.map BitVec.toNat).sum

/-- The sum of every byte, reduced modulo 256 once at the end (R122, R124). -/
def sumMod256 (bs : List Byte) : Byte := BitVec.ofNat 8 (exactSum bs)

/-- `running_sum` (R121): the sum modulo 256 of every element but the last. -/
def runningSum (bs : List Byte) : Byte := sumMod256 bs.dropLast

/-- The summed sequence S (R123). -/
def summedSequence (cfg : Config) (d : List Byte) : List Byte := cfg.hdr0 :: cfg.hdr1 :: d

/-- The 8-character binary string of v, most significant bit first (R125). -/
def bits8 (v : Nat) : List Bool := [7, 6, 5, 4, 3, 2, 1, 0].map v.testBit

/-- The unsigned value of a binary string, most significant bit first (R125). -/
def ofBits (str : List Bool) : Nat := str.foldl (fun acc b => 2 * acc + b.toNat) 0

/-- The last index of a '1' in a binary string (R125). -/
def lastOne : List Bool → Option Nat
  | [] => none
  | b :: rest =>
    match lastOne rest with
    | some j => some (j + 1)
    | none => if b then some 0 else none

/-- Every bit strictly before position idx flipped (R125). -/
def flipBefore (idx : Nat) (str : List Bool) : List Bool := (str.take idx).map (!·) ++ str.drop idx

/-- Derivation A (R125, R126), in the source's string form, with 256 giving 0 and 0 giving `CSA_ZERO`. Its
domain is 0..256; nothing outside reaches it (assumption log entry 9). -/
def derivationA (cfg : Config) (v : Nat) : Byte :=
  if v = 256 then 0x00#8
  else
    match lastOne (bits8 v) with
    | some idx => BitVec.ofNat 8 (ofBits (flipBefore idx (bits8 v)))
    | none => cfg.csaZero

/-- Derivation B (R128). -/
def derivationB (v : Byte) : Byte := v ^^^ 0xFF#8

/-- The comparison value cs2 (R129). -/
def comparisonValue (cfg : Config) (s : Byte) : Byte :=
  match cfg.mode with
  | .crossB => derivationB s
  | .asBuilt => derivationA cfg s.toNat

/-- What the engine produces for one record (R120). -/
structure EngineResult where
  /-- the summed sequence S -/
  seq : List Byte
  /-- the running sum s -/
  sum : Byte
  /-- cs = A(s + 1) -/
  cs : Byte
  /-- cs2, the comparison value -/
  cs2 : Byte
  /-- the verdict -/
  agree : Bool
deriving DecidableEq, Repr

/-- The engine as one function (R120, R129). `s + 1` is not reduced and lies in 1..256 (R122). -/
def engine (cfg : Config) (d : List Byte) : EngineResult :=
  let seq := summedSequence cfg d
  let s := sumMod256 seq
  let cs := derivationA cfg (s.toNat + 1)
  let cs2 := comparisonValue cfg s
  { seq := seq, sum := s, cs := cs, cs2 := cs2, agree := cs == cs2 }

end Sys2Proof.Machine
end

