-- ==== Sys2Proof/Machine/Ops.lean ====
section
/-! DEFINITION. The named operations over the state: answering, counting, recording the diagnostics, the
abort transition (60_exceptions.md R215) with the reset that alone leaves it (R217, R240), and taking the
next command from the stream (43_commands.md R170). CKACC has no memory, so there are no memory
operations (20_memory.md R50). -/

namespace Sys2Proof.Machine

open Sys2Proof

/-- `respond` (R15, R80): one response leaves the response port, after all earlier ones (R63). -/
def State.respond (s : State) (r : Response) : State := { s with sent := s.sent ++ [r] }

/-- One more line skipped (R28); the counter wraps at its width. -/
def State.countSkip (s : State) : State :=
  { s with regs := { s.regs with skipCount := s.regs.skipCount + 1#32 } }

/-- One more record emitted (R27); the counter wraps at its width. -/
def State.countEmit (s : State) : State :=
  { s with regs := { s.regs with emitCount := s.regs.emitCount + 1#32 } }

/-- The diagnostics of a line that reached the engine, agreeing or not (R24 to R26, R134). -/
def State.recordDiag (s : State) (e : EngineResult) : State :=
  { s with regs := { s.regs with
      diagValid := true, diagSeq := e.seq, diagSum := e.sum, diagCs := e.cs, diagCs2 := e.cs2 } }

/-- The two fatal outcomes of a line, with what each records (R211). -/
inductive AbortInfo where
  /-- the two checksums disagree: s, cs, cs2 (R213) -/
  | mismatch (s cs cs2 : Byte)
  /-- payload character k is no hex digit (R214) -/
  | badHex (k : Nat)
deriving DecidableEq, Repr

/-- The abort transition (R215), the block's one trap-like event. -/
def State.abort (s : State) : AbortInfo → State
  | .mismatch sum cs cs2 =>
    { s with regs := { s.regs with phase := .abort, abortCause := .mismatch } }.respond
      (.mismatch sum cs cs2)
  | .badHex k =>
    { s with regs := { s.regs with
        phase := .abort, abortCause := .badHex, badPos := BitVec.ofNat 8 k } }.respond
      (.badHex (BitVec.ofNat 8 k))

/-- Both reset events establish this (R240): every element at its reset value. It is the only way out of
`ABORT` (R217). The parameters, the streams and what the host already holds stay (R37); the output of the run
that begins here starts behind what has been sent (R249). -/
def State.resetElements (s : State) : State :=
  { s with regs := Elements.reset s.cfg, sentAtReset := s.sent.length }

/-- What stands next on the command port, and the state once it has been taken off. -/
inductive Fetched where
  /-- a complete command -/
  | command (i : Instr) (s : State)
  /-- an illegal opcode -/
  | illegal (op : Byte) (s : State)
  /-- no complete command, and a hardware reset arrives: the bytes received so far are discarded (R83) -/
  | hardwareReset (s : State)
  /-- no complete command, and nothing more arrives (R82) -/
  | stuck (f : Fault)
deriving DecidableEq, Repr

/-- Take the next command from the stream (R170). Complete commands go before a hardware reset that arrives
after them (assumption log entry 8). -/
def State.fetch (s : State) : Fetched :=
  match decode s.port with
  | .command i rest => .command i { s with port := rest }
  | .illegal op rest => .illegal op { s with port := rest }
  | .incomplete =>
    match s.pendingResets with
    | bytes :: more => .hardwareReset { s with port := bytes, pendingResets := more }
    | [] => .stuck (if s.port.isEmpty then .noCommand else .incompleteCommand)

end Sys2Proof.Machine
end

