-- ==== Sys2Proof/Machine/EngineCommands.lean ====
section
/-! DEFINITION. The engine test commands `RSUM`, `CSA` and `CSB` (43_commands.md R176 to R178). None writes a
state element or reads `PHASE`. -/

namespace Sys2Proof.Machine

open Sys2Proof

/-- `RSUM` (R176). -/
def execRsum (b : List Byte) (s : State) : Result :=
  if rsumInDomain b then .next (s.respond (.value [runningSum b]))
  else .next (s.respond (.badOperand 0x05#8))

/-- `CSA` (R177). -/
def execCsa (v : Half) (s : State) : Result :=
  if csaInDomain v then .next (s.respond (.value [derivationA s.cfg v.toNat]))
  else .next (s.respond (.badOperand 0x06#8))

/-- `CSB` (R178). -/
def execCsb (v : Byte) (s : State) : Result := .next (s.respond (.value [derivationB v]))

end Sys2Proof.Machine
end

