-- ==== Sys2Proof/Machine/RecordDecoder.lean ====
section
/-! DEFINITION. The Record Decoder (40_record_decoder.md): length gate, payload extraction, tokens, hex check
and hex-to-binary conversion. Pure functions of the line and the parameters; the dropped characters are
never read (30_encoding.md R72, R107, R108). -/

namespace Sys2Proof.Machine

open Sys2Proof

/-- The length gate (R100). -/
def gate (cfg : Config) (n : Nat) : Bool := n == cfg.recordLen

/-- A character is a hexadecimal digit of either case (R16). -/
def isHex (ch : Byte) : Bool :=
  (0x30#8 ≤ ch && ch ≤ 0x39#8) || (0x41#8 ≤ ch && ch ≤ 0x46#8) || (0x61#8 ≤ ch && ch ≤ 0x66#8)

/-- The value 0..15 of a hexadecimal digit (R16). It is used on characters that pass `isHex` only; on any
other it is 0, which no command reads (assumption log entry 9). -/
def hexval (ch : Byte) : Nat :=
  if 0x30#8 ≤ ch && ch ≤ 0x39#8 then ch.toNat - 0x30
  else if 0x41#8 ≤ ch && ch ≤ 0x46#8 then ch.toNat - 0x41 + 10
  else if 0x61#8 ≤ ch && ch ≤ 0x66#8 then ch.toNat - 0x61 + 10
  else 0

/-- Payload extraction (R102): `N_PAY_CHARS` characters from position `PREFIX_LEN`. -/
def payload (cfg : Config) (c : List Byte) : List Byte := (c.drop prefixLen).take cfg.nPayChars

/-- Characters grouped two by two, in order. -/
def pairUp : List Byte → List (Byte × Byte)
  | a :: b :: rest => (a, b) :: pairUp rest
  | _ => []

/-- Tokenisation (R103): the two-character tokens of the payload, characters unchanged. -/
def tokens (cfg : Config) (c : List Byte) : List (Byte × Byte) := pairUp (payload cfg c)

/-- The hex check (R104): the position in the line of the first payload character that is no hex digit. -/
def hexcheck (cfg : Config) (c : List Byte) : Option Nat :=
  ((payload cfg c).findIdx? fun ch => !isHex ch).map (· + prefixLen)

/-- One token as a byte, its first character the high nibble (R54, R105). -/
def tokenByte (t : Byte × Byte) : Byte := BitVec.ofNat 8 (16 * hexval t.1 + hexval t.2)

/-- Hex-to-binary conversion (R73, R105). -/
def toBytes (cfg : Config) (c : List Byte) : List Byte := (tokens cfg c).map tokenByte

/-- The three results of the decoder. -/
inductive RecordResult where
  /-- the line has the wrong length -/
  | skip
  /-- character k of the line is in the payload and no hex digit -/
  | badHex (k : Nat)
  /-- the decoded bytes -/
  | data (d : List Byte)
deriving DecidableEq, Repr

/-- The decoder as one function, its checks in the order of R106. n is the line's length. -/
def decodeRecord (cfg : Config) (c : List Byte) : RecordResult :=
  if gate cfg c.length then
    match hexcheck cfg c with
    | some k => .badHex k
    | none => .data (toBytes cfg c)
  else .skip

end Sys2Proof.Machine
end

