-- ==== Sys2Proof/Machine/LineCommand.lean ====
section
/-! DEFINITION. `LINE` (43_commands.md R172): phase test, length gate, hex check, engine, then the output
record or the abort, in the order of 60_exceptions.md R219. -/

namespace Sys2Proof.Machine

open Sys2Proof

/-- A line whose payload decoded to d: record the diagnostics, then emit or abort (R172, R213, R150). -/
def finishLine (s : State) (d : List Byte) : State :=
  let e := engine s.cfg d
  if e.agree then ((s.recordDiag e).countEmit).respond (.emitted (emit s.cfg d e.cs))
  else (s.recordDiag e).abort (.mismatch e.sum e.cs e.cs2)

/-- A line in `RUN` (R172). -/
def processLine (s : State) (c : List Byte) : State :=
  match decodeRecord s.cfg c with
  | .skip => s.countSkip.respond .skipped
  | .badHex k => s.abort (.badHex k)
  | .data d => finishLine s d

/-- `LINE` (R172, R216): outside `RUN` the line is not even decoded. -/
def execLine (c : List Byte) (s : State) : Result :=
  match s.regs.phase with
  | .run => .next (processLine s c)
  | .abort => .next (s.respond .ignored)
  | .finished => .next (s.respond .ignored)

end Sys2Proof.Machine
end

