-- ==== Sys2Proof/Machine/SystemCommands.lean ====
section
/-! DEFINITION. `RESET`, `FINISH` and `RDREG` (43_commands.md R171, R174, R175), and the two steps that no
command of the opcode table makes: an illegal opcode (30_encoding.md R78) and the hardware reset
(70_reset_and_hazards.md R240). -/

namespace Sys2Proof.Machine

open Sys2Proof

/-- `RESET` (R171). -/
def execReset (s : State) : Result := .next (s.resetElements.respond .ok)

/-- `FINISH` (R174). -/
def execFinish (s : State) : Result :=
  match s.regs.phase with
  | .run => .next ({ s with regs := { s.regs with phase := .finished } }.respond .ok)
  | .finished => .next (s.respond .ok)
  | .abort => .next (s.respond .ignored)

/-- `RDREG` (R175). -/
def execRdreg (idx : Byte) (s : State) : Result :=
  match registerAt s.cfg idx with
  | some r => .next (s.respond (.value (r.snapshot s.cfg s.regs)))
  | none => .next (s.respond (.badOperand 0x04#8))

/-- An illegal opcode (R78): nothing changes, `ILLEGAL_CMD` and the opcode are answered. -/
def execIllegal (op : Byte) (s : State) : Result := .next (s.respond (.illegalCmd op))

/-- The hardware reset (R240): as `RESET`, but without a response. -/
def execHardwareReset (s : State) : Result := .next s.resetElements

end Sys2Proof.Machine
end

