-- ==== Sys2Proof/Machine/Dispatch.lean ====
section
/-! DEFINITION. One arm per command (43_commands.md R170). -/

namespace Sys2Proof.Machine

open Sys2Proof

def exec (i : Instr) (s : State) : Host.Outcome State Fault Refusal :=
  match i with
  | .reset => Sys2Proof.Machine.execReset s
  | .line c => Sys2Proof.Machine.execLine c s
  | .finish => Sys2Proof.Machine.execFinish s
  | .rdreg idx => Sys2Proof.Machine.execRdreg idx s
  | .rsum b => Sys2Proof.Machine.execRsum b s
  | .csa v => Sys2Proof.Machine.execCsa v s
  | .csb v => Sys2Proof.Machine.execCsb v s

end Sys2Proof.Machine
end

