-- ==== Sys2Proof/Machine/Step.lean ====
section
/-! DEFINITION. One step: one complete command, one illegal opcode or one hardware reset (43_commands.md R170,
20_memory.md R56, 70_reset_and_hazards.md R240). -/

namespace Sys2Proof.Machine

open Sys2Proof

/-- Take what stands next on the command port and carry it out; stop where nothing complete stands there
(30_encoding.md R82). -/
def step (s : State) : Host.Outcome State Fault Refusal :=
  match s.fetch with
  | .command i s' => exec i s'
  | .illegal op s' => execIllegal op s'
  | .hardwareReset s' => execHardwareReset s'
  | .stuck f => .fault f

/-- s with the instruction whose bits are `w` first on the command port, before the bytes already there:
the host has sent it (assumption log entry 5). -/
def State.withFetchWord (s : State) (nbits w : Nat) : State :=
  { s with port := tableBytes nbits w ++ s.port }

end Sys2Proof.Machine
end

