-- ==== Sys2Proof/Machine/HostText.lean ====
section
/-! DEFINITION. What the host makes of the block's answers and commands, beside the machine: the text line it
renders from an output record (42_array_emitter.md R155 to R157) and the pseudo-instructions of the
assembler (30_encoding.md R85). Informative host behaviour: no step reads anything here (R4, R37). -/

namespace Sys2Proof.Machine

open Sys2Proof

/-- A nibble as an upper-case hex digit (R155). -/
def upperDigit (n : Nat) : Byte := BitVec.ofNat 8 (if n < 10 then 0x30 + n else 0x41 + (n - 10))

/-- A nibble as a lower-case hex digit (R156). -/
def lowerDigit (n : Nat) : Byte := BitVec.ofNat 8 (if n < 10 then 0x30 + n else 0x61 + (n - 10))

/-- Two upper-case digits (R155 item 1). -/
def upperToken (b : Byte) : List Byte := [upperDigit (b.toNat / 16), upperDigit (b.toNat % 16)]

/-- The checksum text: two lower-case digits, zero-padded (R156). -/
def checksumText (cs : Byte) : List Byte := [lowerDigit (cs.toNat / 16), lowerDigit (cs.toNat % 16)]

/-- The host's tokens 1 and 2 (R155): the header bytes, then the line's own characters. -/
def hostTokens (cfg : Config) (c : List Byte) : List (List Byte) :=
  [cfg.i2cAddr, cfg.hdr0, cfg.hdr1].map upperToken ++ (tokens cfg c).map fun t => [t.1, t.2]

/-- The separator: a comma, then 0x (R157). -/
def hostSeparator : List Byte := [0x2C#8, 0x30#8, 0x78#8]

/-- The host's text line for an output record from line c with checksum cs, ending in a newline (R157). -/
def hostLineText (cfg : Config) (c : List Byte) (cs : Byte) : List Byte :=
  [0x7B#8, 0x30#8, 0x78#8] ++ List.intercalate hostSeparator (hostTokens cfg c) ++ hostSeparator ++
    checksumText cs ++ [0x7D#8, 0x2C#8, 0x0A#8]

/-- `RDSEQ <i>` (R85): `RDREG 0x40+<i>`. DESIGN CHOICE (assumption log entry 19): R85 gives i no range, and from
i = 192 on 0x40+i has no encoding in the 8-bit idx; the model reduces it modulo 256 there, so that `RDSEQ 192` is
`RDREG 0x00`. -/
def rdseq (i : Nat) : List Instr := [.rdreg (BitVec.ofNat 8 (0x40 + i))]

/-- `RDDIAG` (R85): `DIAG_SUM`, `DIAG_CS`, `DIAG_CS2`, in that order. -/
def rddiag : List Instr := [.rdreg 0x01#8, .rdreg 0x02#8, .rdreg 0x03#8]

/-- `CONVERT "<l1>", ..., "<lm>"` (R85). A line longer than 65535 characters has no encoding; its `LINE` is then
not well-formed (DESIGN CHOICE, entry 19). -/
def convert (ls : List (List Byte)) : List Instr := .reset :: (ls.map .line ++ [.finish])

end Sys2Proof.Machine
end

