-- ==== Sys2Proof/Safety.lean ====
section
/-! DEFINITION. The terms claims use: when a run has ended, its result, and the invariant that every
step keeps. -/

namespace Sys2Proof.Machine

open Sys2Proof

/-- A run has ended (70_reset_and_hazards.md R249): the input was finished, or a line aborted it. -/
def State.runEnded (s : State) : Bool := s.regs.phase != .run

/-- The result of a run (R249). -/
structure RunResult where
  /-- the output records emitted since the last reset, in order -/
  records : List (List Byte)
  /-- the final `PHASE` -/
  phase : Phase
  /-- the final `ABORT_CAUSE` -/
  abortCause : AbortCause
  /-- the final `EMIT_COUNT` -/
  emitCount : Count
  /-- the final `SKIP_COUNT` -/
  skipCount : Count
deriving DecidableEq, Repr

/-- The result of the run, none while it has not ended (R249). -/
def State.runResult (s : State) : Option RunResult :=
  if s.runEnded then
    some { records := s.recordsSinceReset, phase := s.regs.phase, abortCause := s.regs.abortCause,
           emitCount := s.regs.emitCount, skipCount := s.regs.skipCount }
  else none

/-- What the diagnostic registers hold once a line has reached the engine (10_state.md R25, R26): the header
bytes first, the sum of the whole sequence, and the two checksums of that sum. -/
structure DiagConsistent (cfg : Config) (e : Elements) : Prop where
  header : e.diagSeq.take 2 = [cfg.hdr0, cfg.hdr1]
  sum : e.diagSum = sumMod256 e.diagSeq
  cs : e.diagCs = derivationA cfg (e.diagSum.toNat + 1)
  cs2 : e.diagCs2 = comparisonValue cfg e.diagSum

/-- The invariant of the elements. It rules out what no run reaches: a `PHASE` of `ABORT` without a cause or
a cause without it (R22, R23), a `BAD_POS` out of its range or without its cause (R29), diagnostic
registers that hold no line's values (R24 to R26), a mismatch of equal checksums (R129), and an emitted
record with no valid diagnostics or with checksums that do not come from it (R172). -/
structure Elements.Consistent (cfg : Config) (e : Elements) : Prop where
  seqLength : e.diagSeq.length = cfg.nSum
  causeIffAbort : e.phase = .abort ↔ e.abortCause ≠ .none
  badPosRange : e.abortCause = .badHex →
    prefixLen ≤ e.badPos.toNat ∧ e.badPos.toNat + suffixLen < cfg.recordLen
  badPosZero : e.abortCause ≠ .badHex → e.badPos = 0#8
  diagUnset : e.diagValid = false →
    e.diagSeq = List.replicate cfg.nSum 0#8 ∧ e.diagSum = 0#8 ∧ e.diagCs = 0#8 ∧ e.diagCs2 = 0#8
  diagSet : e.diagValid = true → DiagConsistent cfg e
  mismatchDiffers : e.abortCause = .mismatch → e.diagValid = true ∧ e.diagCs ≠ e.diagCs2
  agreesOtherwise : e.abortCause ≠ .mismatch → e.diagValid = true → e.diagCs = e.diagCs2
  emittedValid : e.emitCount ≠ 0#32 → e.diagValid = true

/-- The invariant of a state: a legal `RECORD_LEN` (R5), consistent elements, the last reset's mark within
what has been sent, and `EMIT_COUNT` the number of the run's records modulo 2^32 (R27, R152, D13). -/
structure State.Inv (s : State) : Prop where
  legal : s.cfg.legal = true
  consistent : s.regs.Consistent s.cfg
  markSent : s.sentAtReset ≤ s.sent.length
  counted : s.regs.emitCount = BitVec.ofNat 32 s.recordsSinceReset.length

end Sys2Proof.Machine
end

