-- ==== Sys2Proof/Certificates/Slice0/Obligations.lean ====
section
/-! DEFINITION. The statements for the provers, from the numbered rules of spec/. A completion statement gives
the next state in full, so it is the frame as well: every field not named is as before. CKACC has no memory
(20_memory.md R50), so no statement speaks of stored bytes. -/

open Sys2Proof Sys2Proof.Machine

/-! ## Encoding and framing -/

/-- 30_encoding.md R75, R76: a command's bytes, whatever follows them, decode to that command. -/
def Obligations.DecodeOfEncodeGivesTheCommand : Prop :=
  ∀ (i : Instr) (rest : List Byte), i.wf = true → decode (encode i ++ rest) = .command i rest

/-- 30_encoding.md R75, R76: a stream that decodes to a command begins with exactly that command's bytes. -/
def Obligations.DecodedCommandWasEncoded : Prop :=
  ∀ (bs rest : List Byte) (i : Instr), decode bs = .command i rest → i.wf = true ∧ bs = encode i ++ rest

/-- 30_encoding.md R86: the length of a command from its first bytes; a stream holds a complete command or an
illegal opcode exactly when it has that many bytes, and then that many bytes are taken. -/
def Obligations.CommandLengthGovernsDecoding : Prop :=
  (∀ (op : Byte) (rest : List Byte),
      (op = 0x01#8 ∨ op = 0x03#8 ∨ op = 0x00#8 ∨ 0x08 ≤ op.toNat → commandLength (op :: rest) = some 1) ∧
      (op = 0x04#8 ∨ op = 0x07#8 → commandLength (op :: rest) = some 2) ∧
      (op = 0x06#8 → commandLength (op :: rest) = some 3) ∧
      (op = 0x02#8 ∨ op = 0x05#8 → ∀ (lo hi : Byte) (body : List Byte), rest = lo :: hi :: body →
        commandLength (op :: rest) = some (3 + (lo.toNat + 256 * hi.toNat)))) ∧
  (∀ bs : List Byte, decode bs = .incomplete ↔ ∀ n, commandLength bs = some n → bs.length < n) ∧
  (∀ (bs rest : List Byte) (i : Instr) (n : Nat),
      decode bs = .command i rest → commandLength bs = some n → rest = bs.drop n) ∧
  (∀ (bs rest : List Byte) (op : Byte), decode bs = .illegal op rest → bs = op :: rest)

/-- 20_memory.md R59, R61: bytes that arrive later change neither a complete command nor an illegal opcode. -/
def Obligations.LaterBytesDoNotChangeADecodedCommand : Prop :=
  ∀ bs more rest : List Byte,
    (∀ i, decode bs = .command i rest → decode (bs ++ more) = .command i (rest ++ more)) ∧
    (∀ op, decode bs = .illegal op rest → decode (bs ++ more) = .illegal op (rest ++ more))

/-- 30_encoding.md R75, R84: words written out from the encoding table, one for each command. -/
def Obligations.WrittenWordsDecode : Prop :=
  decode [0x01#8] = .command .reset [] ∧
  decode [0x02#8, 0x02#8, 0x00#8, 0x3A#8, 0x30#8] = .command (.line [0x3A#8, 0x30#8]) [] ∧
  decode [0x03#8, 0x04#8] = .command .finish [0x04#8] ∧
  decode [0x04#8, 0x42#8] = .command (.rdreg 0x42#8) [] ∧
  decode [0x05#8, 0x03#8, 0x00#8, 0x41#8, 0x10#8, 0xAA#8] = .command (.rsum [0x41#8, 0x10#8, 0xAA#8]) [] ∧
  decode [0x06#8, 0xC5#8, 0x01#8] = .command (.csa 0x01C5#16) [] ∧
  decode [0x07#8, 0xC4#8] = .command (.csb 0xC4#8) []

/-! ## The step -/

/-- 43_commands.md R170: when a complete command stands on the port, the step takes its bytes off the port and
is that command. With a hardware reset pending, that the complete command goes first is the model's choice
(assumption log entry 8). -/
def Obligations.StepRunsTheDecodedCommand : Prop :=
  ∀ (s : State) (i : Instr) (rest : List Byte),
    decode s.port = .command i rest → step s = exec i { s with port := rest }

/-- 30_encoding.md R78: an illegal opcode takes one byte, changes no state element, and is answered with
`ILLEGAL_CMD` and the opcode; what follows is decoded anew. With a hardware reset pending, that the illegal
opcode is taken first is the model's choice (assumption log entry 8). -/
def Obligations.IllegalOpcodeTakesOneByteAndAnswers : Prop :=
  ∀ (s : State) (op : Byte) (rest : List Byte),
    s.port = op :: rest → (op = 0x00#8 ∨ 0x08 ≤ op.toNat) →
      step s = .next { s with port := rest, sent := s.sent ++ [.illegalCmd op] } ∧
      (Response.illegalCmd op).bytes = [0x07#8, op]

/-- 30_encoding.md R82: a legal opcode whose stream ends before the command's full length has no step while
no more arrives; the block goes on once the remaining bytes have arrived. -/
def Obligations.IncompleteCommandHasNoStep : Prop :=
  ∀ (s : State) (op : Byte) (rest : List Byte),
    s.port = op :: rest → (∀ n, commandLength s.port = some n → s.port.length < n) → s.pendingResets = [] →
      step s = .fault .incompleteCommand ∧
      ∀ (more tail : List Byte) (i : Instr), decode (s.port ++ more) = .command i tail →
        ∃ t r, step { s with port := s.port ++ more } = .next t ∧ t.sent = s.sent ++ [r]

/-- 30_encoding.md R83, 70_reset_and_hazards.md R240: a hardware reset that arrives while a command is
incomplete discards the bytes received so far, sets every element as `RESET` does, and answers nothing; the
bytes after it stand next on the port. The field `sentAtReset` is the model's mark (assumption log entry 6). -/
def Obligations.HardwareResetDiscardsAnIncompleteCommand : Prop :=
  ∀ (s : State) (bytes : List Byte) (more : List (List Byte)) (fresh : Elements),
    fresh = { phase := .run, abortCause := .none, diagValid := false,
              diagSeq := List.replicate s.cfg.nSum 0x00#8, diagSum := 0x00#8, diagCs := 0x00#8,
              diagCs2 := 0x00#8, badPos := 0x00#8, emitCount := 0#32, skipCount := 0#32 } →
    (exec .reset s = .next { s with
      regs := fresh, sent := s.sent ++ [.ok], sentAtReset := s.sent.length }) ∧
    ((∀ n, commandLength s.port = some n → s.port.length < n) → s.pendingResets = bytes :: more →
      step s = .next { s with
        regs := fresh, port := bytes, pendingResets := more, sentAtReset := s.sent.length })

/-- 70_reset_and_hazards.md R248, D31: whatever has been sent, after at most one step for each byte and each
hardware reset the block has taken all it can and waits. That waiting is a fault of the step is the model's
reading (assumption log entry 7), and so are the fields `port` and `pendingResets` (entry 5). -/
def Obligations.EveryStreamIsConsumed : Prop :=
  ∀ s : State, ∃ k t f,
    k ≤ s.port.length + (s.pendingResets.map fun bytes => bytes.length + 1).sum ∧
      Host.Core.run Sys2Proof.core k s = .next t ∧ step t = .fault f ∧ t.pendingResets = []

/-- 10_state.md R37, 20_memory.md R63, 43_commands.md R170: a step leaves the parameters, and what has been
answered stays answered: it adds at most one response, behind all earlier ones, and so at most one output
record. The field `sent` is the model's (assumption log entry 6). That with a hardware reset pending the
commands and illegal opcodes before it go first, so that the step is a hardware reset only where `decode` gives
`incomplete`, is the model's choice (assumption log entry 8). -/
def Obligations.OutputOnlyGrowsAndParametersStay : Prop :=
  ∀ s t : State, step s = .next t →
    t.cfg = s.cfg ∧
    ((∃ r, t.sent = s.sent ++ [r] ∧ t.sentRecords = s.sentRecords ++ r.record.toList) ∨
      (t.sent = s.sent ∧ decode s.port = .incomplete))

/-! ## Responses -/

/-- 30_encoding.md R80: every command is answered exactly once, with a code byte and a payload whose length
the code fixes. -/
def Obligations.EveryCommandAnswersExactlyOnce : Prop :=
  ∀ (i : Instr) (s : State), s.cfg.legal = true →
    ∃ t r, exec i s = .next t ∧ t.sent = s.sent ++ [r] ∧ r.bytes = r.code :: r.payload ∧
      (r.code = 0x00#8 ∨ r.code = 0x01#8 ∨ r.code = 0x05#8 → r.payload.length = 0) ∧
      (r.code = 0x02#8 → r.payload.length = s.cfg.nOut) ∧
      (r.code = 0x03#8 → r.payload.length = 3) ∧
      (r.code = 0x04#8 ∨ r.code = 0x08#8 → r.payload.length = 1) ∧
      (r.code = 0x06#8 → r.payload.length =
        if i = .rdreg 0x05#8 ∨ i = .rdreg 0x06#8 then 4 else 1)

/-- 30_encoding.md R81: which command in which case answers with which code and payload. With a hardware reset
pending, that the illegal opcode is taken first is the model's choice (assumption log entry 8). -/
def Obligations.ResponseCodesComeFromTheirCommands : Prop :=
  (∀ (s : State) (op : Byte) (rest : List Byte), decode s.port = .illegal op rest →
    ∃ t r, step s = .next t ∧ t.sent = s.sent ++ [r] ∧ r.code = 0x07#8 ∧ r.payload = [op]) ∧
  ∀ (i : Instr) (s t : State) (r : Response), exec i s = .next t → t.sent = s.sent ++ [r] →
    (r.code = 0x00#8 ↔ (i = .reset ∨ (i = .finish ∧ s.regs.phase ≠ .abort)) ∧ r.payload = []) ∧
    (r.code = 0x01#8 ↔
      ∃ c, i = .line c ∧ s.regs.phase = .run ∧ c.length ≠ s.cfg.recordLen ∧ r.payload = []) ∧
    (r.code = 0x02#8 ↔ ∃ c d, i = .line c ∧ s.regs.phase = .run ∧ decodeRecord s.cfg c = .data d ∧
      (engine s.cfg d).agree = true ∧
      r.payload = [s.cfg.i2cAddr, s.cfg.hdr0, s.cfg.hdr1] ++ d ++ [(engine s.cfg d).cs]) ∧
    (r.code = 0x03#8 ↔ ∃ c d, i = .line c ∧ s.regs.phase = .run ∧ decodeRecord s.cfg c = .data d ∧
      (engine s.cfg d).agree = false ∧
      r.payload = [(engine s.cfg d).sum, (engine s.cfg d).cs, (engine s.cfg d).cs2]) ∧
    (r.code = 0x04#8 ↔ ∃ c k, i = .line c ∧ s.regs.phase = .run ∧ c.length = s.cfg.recordLen ∧
      hexcheck s.cfg c = some k ∧ r.payload = [BitVec.ofNat 8 k]) ∧
    (r.code = 0x05#8 ↔
      ((∃ c, i = .line c ∧ s.regs.phase ≠ .run) ∨ (i = .finish ∧ s.regs.phase = .abort)) ∧ r.payload = []) ∧
    (r.code = 0x06#8 ↔
      (∃ idx reg, i = .rdreg idx ∧ registerAt s.cfg idx = some reg ∧
        r.payload = reg.snapshot s.cfg s.regs) ∨
      (∃ b, i = .rsum b ∧ b ≠ [] ∧ r.payload = [runningSum b]) ∨
      (∃ v, i = .csa v ∧ v.toNat ≤ 256 ∧ r.payload = [derivationA s.cfg v.toNat]) ∨
      (∃ v, i = .csb v ∧ r.payload = [derivationB v])) ∧
    (r.code = 0x08#8 ↔
      (∃ idx, i = .rdreg idx ∧ registerAt s.cfg idx = none ∧ r.payload = [0x04#8]) ∨
      (i = .rsum [] ∧ r.payload = [0x05#8]) ∨
      (∃ v, i = .csa v ∧ 256 < v.toNat ∧ r.payload = [0x06#8])) ∧
    r.code ≠ 0x07#8 ∧ r.code.toNat ≤ 0x08

/-- 30_encoding.md R79: an operand outside its domain takes the command's full length from the stream, changes
no state element, and is answered with `BAD_OPERAND` and the opcode. No length of a line is one. With a hardware
reset pending, that the complete command goes first is the model's choice (assumption log entry 8). -/
def Obligations.BadOperandChangesNothing : Prop :=
  (∀ (s : State) (idx : Byte) (rest : List Byte), s.port = 0x04#8 :: idx :: rest →
      (idx = 0x07#8 ∨ (0x0E ≤ idx.toNat ∧ idx.toNat ≤ 0x3F) ∨ 0x40 + s.cfg.nSum ≤ idx.toNat) →
      step s = .next { s with port := rest, sent := s.sent ++ [.badOperand 0x04#8] }) ∧
  (∀ (s : State) (lo hi : Byte) (rest : List Byte), s.port = 0x06#8 :: lo :: hi :: rest →
      256 < lo.toNat + 256 * hi.toNat →
      step s = .next { s with port := rest, sent := s.sent ++ [.badOperand 0x06#8] }) ∧
  (∀ (s : State) (rest : List Byte), s.port = 0x05#8 :: 0x00#8 :: 0x00#8 :: rest →
      step s = .next { s with port := rest, sent := s.sent ++ [.badOperand 0x05#8] }) ∧
  (∀ op : Byte, (Response.badOperand op).bytes = [0x08#8, op]) ∧
  (∀ (c : List Byte) (s t : State) (op : Byte), exec (.line c) s = .next t →
      t.sent ≠ s.sent ++ [.badOperand op])

/-! ## Record Decoder -/

/-- 00_scope.md R16: the hex digits by code value, and their values. -/
def Obligations.HexDigitsByCodeValue : Prop :=
  ∀ ch : Byte,
    (isHex ch = true ↔ (0x30 ≤ ch.toNat ∧ ch.toNat ≤ 0x39) ∨ (0x41 ≤ ch.toNat ∧ ch.toNat ≤ 0x46) ∨
      (0x61 ≤ ch.toNat ∧ ch.toNat ≤ 0x66)) ∧
    (0x30 ≤ ch.toNat ∧ ch.toNat ≤ 0x39 → hexval ch = ch.toNat - 0x30) ∧
    (0x41 ≤ ch.toNat ∧ ch.toNat ≤ 0x46 → hexval ch = ch.toNat - 0x41 + 10) ∧
    (0x61 ≤ ch.toNat ∧ ch.toNat ≤ 0x66 → hexval ch = ch.toNat - 0x61 + 10)

/-- 40_record_decoder.md R104: the hex check gives the least payload position that holds no hex digit, and
nothing exactly when every payload character is one. -/
def Obligations.HexcheckFindsTheFirstBadCharacter : Prop :=
  ∀ (cfg : Config) (c : List Byte), cfg.legal = true → c.length = cfg.recordLen →
    (∀ k, hexcheck cfg c = some k ↔
      9 ≤ k ∧ k ≤ cfg.recordLen - 3 ∧ isHex (c.getD k 0#8) = false ∧
        ∀ j, 9 ≤ j → j < k → isHex (c.getD j 0#8) = true) ∧
    (hexcheck cfg c = none ↔ ∀ j, 9 ≤ j → j ≤ cfg.recordLen - 3 → isHex (c.getD j 0#8) = true)

/-- 30_encoding.md R73, 40_record_decoder.md R105: data byte i from the characters at positions 9 + 2i and
10 + 2i, the first the high nibble, whatever the case of a digit. -/
def Obligations.DataBytesComeFromCharacterPairs : Prop :=
  (∀ (cfg : Config) (c : List Byte), cfg.legal = true → c.length = cfg.recordLen →
    toBytes cfg c = (List.range cfg.nData).map fun i =>
      BitVec.ofNat 8 (16 * hexval (c.getD (9 + 2 * i) 0#8) + hexval (c.getD (9 + 2 * i + 1) 0#8))) ∧
  (∀ (cfg : Config) (c c' : List Byte), c.length = c'.length →
    (∀ k, hexval (c.getD k 0#8) = hexval (c'.getD k 0#8)) → toBytes cfg c = toBytes cfg c') ∧
  (∀ a b : Byte, isHex a = true → isHex b = true →
    (tokenByte (a, b)).toNat = 16 * hexval a + hexval b)

/-- 30_encoding.md R72, 40_record_decoder.md R108: the dropped fields are never inspected: two lines of the
same length that agree in the payload positions have the same effect and the same answer. -/
def Obligations.DroppedFieldsAreNeverInspected : Prop :=
  ∀ (s : State) (c c' : List Byte), s.cfg.legal = true → c.length = c'.length →
    (∀ k, 9 ≤ k → k ≤ s.cfg.recordLen - 3 → c.getD k 0#8 = c'.getD k 0#8) →
      exec (.line c) s = exec (.line c') s

/-! ## Checksum Engine -/

/-- 41_checksum_engine.md R121: the sum of every element except the last, modulo 256. -/
def Obligations.RunningSumLeavesOutTheLastByte : Prop :=
  ∀ (bs : List Byte) (x : Byte), runningSum (bs ++ [x]) = BitVec.ofNat 8 ((bs.map BitVec.toNat).sum % 256)

/-- 41_checksum_engine.md R122: one reduction at the end gives what reducing after each addition gives, and
s + 1 goes to derivation A unreduced, in 1..256. -/
def Obligations.ReducingOnceEqualsReducingEachTime : Prop :=
  (∀ bs : List Byte, sumMod256 bs = bs.foldl (fun acc b => acc + b) 0#8) ∧
  ∀ (cfg : Config) (d : List Byte), ∃ v : Nat, 1 ≤ v ∧ v ≤ 256 ∧ v = (engine cfg d).sum.toNat + 1 ∧
    (engine cfg d).cs = derivationA cfg v

/-- 41_checksum_engine.md R124: the running sum of a record covers the header and every data byte, which is
`running_sum` with any placeholder behind them. -/
def Obligations.RecordSumCoversEveryByte : Prop :=
  ∀ (cfg : Config) (d : List Byte) (x : Byte),
    (engine cfg d).sum =
      BitVec.ofNat 8 ((cfg.hdr0.toNat + cfg.hdr1.toNat + (d.map BitVec.toNat).sum) % 256) ∧
    (engine cfg d).sum = runningSum ((engine cfg d).seq ++ [x])

/-- 41_checksum_engine.md R125, bit form: derivation A keeps the lowest set bit and all below it and flips all
above it. -/
def Obligations.DerivationAFlipsAboveTheLowestSetBit : Prop :=
  ∀ (cfg : Config) (v p : Nat), 1 ≤ v → v ≤ 255 → v.testBit p = true → (∀ q, q < p → v.testBit q = false) →
    ∀ j, j < 8 → (derivationA cfg v).getLsbD j = if j ≤ p then v.testBit j else !v.testBit j

/-- 41_checksum_engine.md R126: the ends of derivation A's domain; nothing outside the domain reaches it. -/
def Obligations.DerivationAAtTheEndsOfItsDomain : Prop :=
  (∀ cfg : Config, derivationA cfg 256 = 0x00#8 ∧ derivationA cfg 0 = cfg.csaZero) ∧
  (∀ s : Byte, 1 ≤ s.toNat + 1 ∧ s.toNat + 1 ≤ 256) ∧
  (∀ (v : Half) (s : State), 256 < v.toNat →
    exec (.csa v) s = .next { s with sent := s.sent ++ [.badOperand 0x06#8] })

/-- 41_checksum_engine.md R127: derivation A is two's-complement negation on 1..256, and A(s + 1) is
s XOR 0xFF. -/
def Obligations.DerivationAIsNegation : Prop :=
  (∀ (cfg : Config) (v : Nat), 1 ≤ v → v ≤ 256 → derivationA cfg v = BitVec.ofNat 8 ((256 - v) % 256)) ∧
  ∀ (cfg : Config) (s : Byte),
    derivationA cfg (s.toNat + 1) = BitVec.ofNat 8 (255 - s.toNat) ∧
    derivationA cfg (s.toNat + 1) = s ^^^ 0xFF#8

/-- 41_checksum_engine.md R130: in `CROSS_B` mode the checksums always agree, so no line is ever answered with
`MISMATCH`, and a line aborts the run only for a non-hex payload character. -/
def Obligations.CrossBDetectsNoMismatch : Prop :=
  (∀ (cfg : Config) (d : List Byte), cfg.mode = .crossB → (engine cfg d).agree = true) ∧
  ∀ (s t : State) (c : List Byte), s.cfg.legal = true → s.cfg.mode = .crossB → exec (.line c) s = .next t →
    (∀ x y z, t.sent ≠ s.sent ++ [.mismatch x y z]) ∧
    (s.regs.phase = .run → t.regs.phase = .abort →
      ∃ k, 9 ≤ k ∧ k ≤ s.cfg.recordLen - 3 ∧ isHex (c.getD k 0#8) = false)

/-- 41_checksum_engine.md R131: in `AS_BUILT` mode the checksums agree exactly when s is 0 and `CSA_ZERO` is
0xFF, so a line in `RUN` that reaches the engine with s not 0 aborts the run. -/
def Obligations.AsBuiltAgreesOnlyOnZero : Prop :=
  (∀ (cfg : Config) (d : List Byte), cfg.mode = .asBuilt →
    ((engine cfg d).agree = true ↔ (engine cfg d).sum = 0#8 ∧ cfg.csaZero = 0xFF#8) ∧
    ((engine cfg d).sum ≠ 0#8 →
      (engine cfg d).cs.toNat = 255 - (engine cfg d).sum.toNat ∧
      (engine cfg d).cs2.toNat = 256 - (engine cfg d).sum.toNat)) ∧
  ∀ (s : State) (c d : List Byte), s.cfg.mode = .asBuilt → s.regs.phase = .run →
    decodeRecord s.cfg c = .data d → (engine s.cfg d).sum ≠ 0#8 →
      ∃ t, exec (.line c) s = .next t ∧ t.regs.phase = .abort ∧ t.regs.abortCause = .mismatch

/-! ## The commands -/

/-- 43_commands.md R171: `RESET` sets every element to its reset value and answers `OK`; it is the only
command that leaves `ABORT`, and the hardware reset has the same effect on the elements. The field `sentAtReset`
is the model's mark (assumption log entry 6). -/
def Obligations.ResetCommandRestoresEveryElement : Prop :=
  (∀ rest : List Byte, decode (0x01#8 :: rest) = .command .reset rest) ∧
  (∀ s : State, exec .reset s = .next { s with
    regs := { phase := .run, abortCause := .none, diagValid := false,
              diagSeq := List.replicate s.cfg.nSum 0x00#8, diagSum := 0x00#8, diagCs := 0x00#8,
              diagCs2 := 0x00#8, badPos := 0x00#8, emitCount := 0#32, skipCount := 0#32 },
    sent := s.sent ++ [.ok], sentAtReset := s.sent.length }) ∧
  (∀ (i : Instr) (s t : State), s.regs.phase = .abort → exec i s = .next t → t.regs.phase ≠ .abort →
    i = .reset) ∧
  (∀ s t u : State, exec .reset s = .next t → exec .reset t = .next u → u.regs = t.regs) ∧
  (∀ (s t : State) (bytes : List Byte) (more : List (List Byte)), s.port = [] →
    s.pendingResets = bytes :: more → exec .reset s = .next t →
      ∃ u, step s = .next u ∧ u.regs = t.regs)

/-- 43_commands.md R174: `FINISH` moves `RUN` to `END`; it changes nothing in `END` or `ABORT`. -/
def Obligations.FinishEndsTheInput : Prop :=
  (∀ rest : List Byte, decode (0x03#8 :: rest) = .command .finish rest) ∧
  ∀ s : State,
    (s.regs.phase = .run → exec .finish s = .next { s with
      regs := { s.regs with phase := .finished }, sent := s.sent ++ [.ok] }) ∧
    (s.regs.phase = .finished → exec .finish s = .next { s with sent := s.sent ++ [.ok] }) ∧
    (s.regs.phase = .abort → exec .finish s = .next { s with sent := s.sent ++ [.ignored] })

/-- 43_commands.md R175: `RDREG` answers the whole current value of the register its index selects, 4 bytes
little-endian for the counters and 1 byte for every other, and `BAD_OPERAND` for an unassigned index; it
writes nothing. -/
def Obligations.RdregReadsEveryRegister : Prop :=
  (∀ (idx : Byte) (rest : List Byte), decode (0x04#8 :: idx :: rest) = .command (.rdreg idx) rest) ∧
  (∀ s : State,
    exec (.rdreg 0x00#8) s = .next { s with sent := s.sent ++ [.value [statusByte s.regs]] } ∧
    exec (.rdreg 0x01#8) s = .next { s with sent := s.sent ++ [.value [s.regs.diagSum]] } ∧
    exec (.rdreg 0x02#8) s = .next { s with sent := s.sent ++ [.value [s.regs.diagCs]] } ∧
    exec (.rdreg 0x03#8) s = .next { s with sent := s.sent ++ [.value [s.regs.diagCs2]] } ∧
    exec (.rdreg 0x04#8) s = .next { s with sent := s.sent ++ [.value [s.regs.badPos]] } ∧
    exec (.rdreg 0x05#8) s = .next { s with sent := s.sent ++ [.value
      [s.regs.emitCount.extractLsb' 0 8, s.regs.emitCount.extractLsb' 8 8,
        s.regs.emitCount.extractLsb' 16 8, s.regs.emitCount.extractLsb' 24 8]] } ∧
    exec (.rdreg 0x06#8) s = .next { s with sent := s.sent ++ [.value
      [s.regs.skipCount.extractLsb' 0 8, s.regs.skipCount.extractLsb' 8 8,
        s.regs.skipCount.extractLsb' 16 8, s.regs.skipCount.extractLsb' 24 8]] } ∧
    exec (.rdreg 0x08#8) s = .next { s with sent := s.sent ++ [.value [BitVec.ofNat 8 s.cfg.recordLen]] } ∧
    exec (.rdreg 0x09#8) s = .next { s with sent := s.sent ++ [.value [s.cfg.hdr0]] } ∧
    exec (.rdreg 0x0A#8) s = .next { s with sent := s.sent ++ [.value [s.cfg.hdr1]] } ∧
    exec (.rdreg 0x0B#8) s = .next { s with sent := s.sent ++ [.value [s.cfg.i2cAddr]] } ∧
    exec (.rdreg 0x0C#8) s = .next { s with sent := s.sent ++ [.value
      [if s.cfg.mode = .crossB then 0x00#8 else 0x01#8]] } ∧
    exec (.rdreg 0x0D#8) s = .next { s with sent := s.sent ++ [.value [s.cfg.csaZero]] }) ∧
  (∀ (s : State) (i : Nat), s.cfg.legal = true → i < s.cfg.nSum →
    exec (.rdreg (BitVec.ofNat 8 (0x40 + i))) s =
      .next { s with sent := s.sent ++ [.value [s.regs.diagSeq.getD i 0#8]] }) ∧
  (∀ (s : State) (idx : Byte),
    (idx = 0x07#8 ∨ (0x0E ≤ idx.toNat ∧ idx.toNat ≤ 0x3F) ∨ 0x40 + s.cfg.nSum ≤ idx.toNat) →
      exec (.rdreg idx) s = .next { s with sent := s.sent ++ [.badOperand 0x04#8] }) ∧
  (∀ (s : State) (idx : Byte), s.Inv → s.regs.diagValid = false →
    (idx = 0x01#8 ∨ idx = 0x02#8 ∨ idx = 0x03#8 ∨ (0x40 ≤ idx.toNat ∧ idx.toNat < 0x40 + s.cfg.nSum)) →
      exec (.rdreg idx) s = .next { s with sent := s.sent ++ [.value [0x00#8]] })

/-- 10_state.md R30: the fields of `STATUS`. -/
def Obligations.StatusFieldsAreLaidOut : Prop :=
  (∀ e : Elements,
    (statusByte e).extractLsb' 0 2 =
      (match e.phase with | .run => 0#2 | .abort => 1#2 | .finished => 2#2) ∧
    (statusByte e).getLsbD 2 = e.diagValid ∧
    (statusByte e).getLsbD 3 = false ∧
    (statusByte e).extractLsb' 4 4 =
      (match e.abortCause with | .none => 0x0#4 | .mismatch => 0x3#4 | .badHex => 0x4#4)) ∧
  statusByte State.reset.regs = 0x00#8 ∧
  ∀ e : Elements, e.phase = .abort → e.abortCause = .mismatch → e.diagValid = true → statusByte e = 0x35#8

/-- 43_commands.md R176: `RSUM` answers the sum modulo 256 of all bytes but the last, `BAD_OPERAND` for no
bytes; it writes nothing. -/
def Obligations.RsumAnswersTheSumOfAllButTheLast : Prop :=
  (∀ (lo hi : Byte) (b rest : List Byte), b.length = lo.toNat + 256 * hi.toNat →
    decode (0x05#8 :: lo :: hi :: (b ++ rest)) = .command (.rsum b) rest) ∧
  ∀ s : State,
    exec (.rsum []) s = .next { s with sent := s.sent ++ [.badOperand 0x05#8] } ∧
    ∀ (b : List Byte) (x : Byte), exec (.rsum (b ++ [x])) s =
      .next { s with sent := s.sent ++ [.value [BitVec.ofNat 8 ((b.map BitVec.toNat).sum % 256)]] }

/-- 43_commands.md R177: `CSA` answers derivation A for v up to 256, `CSA_ZERO` for 0, and `BAD_OPERAND`
above; it writes nothing. -/
def Obligations.CsaAnswersDerivationA : Prop :=
  (∀ (lo hi : Byte) (rest : List Byte), ∃ v : Half, v.toNat = lo.toNat + 256 * hi.toNat ∧
    decode (0x06#8 :: lo :: hi :: rest) = .command (.csa v) rest) ∧
  ∀ (v : Half) (s : State), exec (.csa v) s = .next { s with sent := s.sent ++
    [if v.toNat = 0 then .value [s.cfg.csaZero]
     else if v.toNat ≤ 256 then .value [BitVec.ofNat 8 ((256 - v.toNat) % 256)]
     else .badOperand 0x06#8] }

/-- 43_commands.md R178: `CSB` answers v XOR 0xFF; it writes nothing. -/
def Obligations.CsbAnswersTheComplement : Prop :=
  ∀ (v : Byte) (s : State) (rest : List Byte),
    decode (0x07#8 :: v :: rest) = .command (.csb v) rest ∧
    exec (.csb v) s = .next { s with sent := s.sent ++ [.value [v ^^^ 0xFF#8]] } ∧
    (Response.value [v ^^^ 0xFF#8]).bytes = [0x06#8, v ^^^ 0xFF#8]

/-- 43_commands.md R172: a line outside `RUN` is answered `IGNORED` and changes nothing. -/
def Obligations.LineOutsideRunIsIgnored : Prop :=
  ∀ (c : List Byte) (s : State), s.regs.phase ≠ .run →
    exec (.line c) s = .next { s with sent := s.sent ++ [.ignored] }

/-- 60_exceptions.md R212, 40_record_decoder.md R100: a line of any other length, whatever it holds, is
counted and answered `SKIPPED`; `PHASE` and everything else stay. -/
def Obligations.LineOfAnotherLengthIsSkipped : Prop :=
  (∀ (cfg : Config) (n : Nat), gate cfg n = true ↔ n = cfg.recordLen) ∧
  ∀ (c : List Byte) (s : State), s.regs.phase = .run → c.length ≠ s.cfg.recordLen →
    exec (.line c) s = .next { s with
      regs := { s.regs with skipCount := s.regs.skipCount + 1#32 }, sent := s.sent ++ [.skipped] }

/-- 60_exceptions.md R214, R215 and 43_commands.md R172: a line of the right length whose first non-hex
payload character is at k aborts with `BAD_HEX` and k; the diagnostics and counters stay. -/
def Obligations.LineWithABadCharacterAborts : Prop :=
  ∀ (c : List Byte) (s : State) (k : Nat), s.cfg.legal = true → s.regs.phase = .run →
    c.length = s.cfg.recordLen → 9 ≤ k → k ≤ s.cfg.recordLen - 3 → isHex (c.getD k 0#8) = false →
    (∀ j, 9 ≤ j → j < k → isHex (c.getD j 0#8) = true) →
      exec (.line c) s = .next { s with
        regs := { s.regs with phase := .abort, abortCause := .badHex, badPos := BitVec.ofNat 8 k },
        sent := s.sent ++ [.badHex (BitVec.ofNat 8 k)] }

/-- 43_commands.md R172 in `CROSS_B` mode: a line of the right length with a hex payload is emitted. D is its
decoded payload, s the sum of the header and D, and both checksums are s XOR 0xFF. -/
def Obligations.CrossBLineIsEmitted : Prop :=
  ∀ (c : List Byte) (s : State), s.cfg.legal = true → s.cfg.mode = .crossB → s.regs.phase = .run →
    c.length = s.cfg.recordLen →
    (∀ j, 9 ≤ j → j ≤ s.cfg.recordLen - 3 → isHex (c.getD j 0#8) = true) →
    ∀ (d : List Byte) (sum : Byte),
      d = ((List.range s.cfg.nData).map fun i =>
        BitVec.ofNat 8 (16 * hexval (c.getD (9 + 2 * i) 0#8) + hexval (c.getD (9 + 2 * i + 1) 0#8))) →
      sum = BitVec.ofNat 8 (s.cfg.hdr0.toNat + s.cfg.hdr1.toNat + (d.map BitVec.toNat).sum) →
        exec (.line c) s = .next { s with
          regs := { s.regs with
            diagValid := true, diagSeq := [s.cfg.hdr0, s.cfg.hdr1] ++ d, diagSum := sum,
            diagCs := sum ^^^ 0xFF#8, diagCs2 := sum ^^^ 0xFF#8,
            emitCount := s.regs.emitCount + 1#32 },
          sent := s.sent ++
            [.emitted ([s.cfg.i2cAddr, s.cfg.hdr0, s.cfg.hdr1] ++ d ++ [sum ^^^ 0xFF#8])] }

/-- 43_commands.md R172 in `AS_BUILT` mode: a line of the right length with a hex payload whose sum s is not 0
aborts with `MISMATCH`, and s, 255 - s and 256 - s are recorded and answered. -/
def Obligations.AsBuiltLineAbortsUnlessTheSumIsZero : Prop :=
  ∀ (c : List Byte) (s : State), s.cfg.legal = true → s.cfg.mode = .asBuilt → s.regs.phase = .run →
    c.length = s.cfg.recordLen →
    (∀ j, 9 ≤ j → j ≤ s.cfg.recordLen - 3 → isHex (c.getD j 0#8) = true) →
    ∀ (d : List Byte) (sum cs2 : Byte),
      d = ((List.range s.cfg.nData).map fun i =>
        BitVec.ofNat 8 (16 * hexval (c.getD (9 + 2 * i) 0#8) + hexval (c.getD (9 + 2 * i + 1) 0#8))) →
      sum = BitVec.ofNat 8 (s.cfg.hdr0.toNat + s.cfg.hdr1.toNat + (d.map BitVec.toNat).sum) →
      cs2 = (if sum = 0#8 then s.cfg.csaZero else BitVec.ofNat 8 (256 - sum.toNat)) →
        (¬(sum = 0#8 ∧ s.cfg.csaZero = 0xFF#8) → exec (.line c) s = .next { s with
          regs := { s.regs with
            phase := .abort, abortCause := .mismatch,
            diagValid := true, diagSeq := [s.cfg.hdr0, s.cfg.hdr1] ++ d, diagSum := sum,
            diagCs := sum ^^^ 0xFF#8, diagCs2 := cs2 },
          sent := s.sent ++ [.mismatch sum (sum ^^^ 0xFF#8) cs2] }) ∧
        (sum = 0#8 → s.cfg.csaZero = 0xFF#8 → exec (.line c) s = .next { s with
          regs := { s.regs with
            diagValid := true, diagSeq := [s.cfg.hdr0, s.cfg.hdr1] ++ d, diagSum := 0#8,
            diagCs := 0xFF#8, diagCs2 := 0xFF#8, emitCount := s.regs.emitCount + 1#32 },
          sent := s.sent ++
            [.emitted ([s.cfg.i2cAddr, s.cfg.hdr0, s.cfg.hdr1] ++ d ++ [0xFF#8])] })

/-! ## What the machine as a whole promises -/

/-- 43_commands.md R173: no command but `LINE` and `RESET` emits a record or changes a counter, a diagnostic
register, `BAD_POS` or `ABORT_CAUSE`; `RESET` emits none and resets them all. -/
def Obligations.OnlyLineEmitsOrCounts : Prop :=
  ∀ (i : Instr) (s t : State), exec i s = .next t → (∀ c, i ≠ .line c) →
    t.sentRecords = s.sentRecords ∧
    (i = .reset → t.regs = Elements.reset s.cfg) ∧
    (i ≠ .reset → t.regs = { s.regs with phase := t.regs.phase })

/-- 20_memory.md R57: `RDREG`, `RSUM`, `CSA` and `CSB` have no side effect and repeat their answer; `FINISH`
changes `PHASE` only and is idempotent; `RESET` is idempotent; an accepted line is not. -/
def Obligations.SideEffectsAndIdempotency : Prop :=
  (∀ (i : Instr) (s t u : State) (r : Response),
    ((∃ idx, i = .rdreg idx) ∨ (∃ b, i = .rsum b) ∨ (∃ v, i = .csa v) ∨ (∃ v, i = .csb v)) →
    exec i s = .next t → t.sent = s.sent ++ [r] → exec i t = .next u →
      t.regs = s.regs ∧ u.regs = s.regs ∧ u.sent = t.sent ++ [r]) ∧
  (∀ s t u : State, exec .finish s = .next t → exec .finish t = .next u →
    t.regs = { s.regs with phase := t.regs.phase } ∧ u.regs = t.regs) ∧
  (∀ s t u : State, exec .reset s = .next t → exec .reset t = .next u → u.regs = t.regs) ∧
  (∀ (c out : List Byte) (s t : State), exec (.line c) s = .next t → t.sent = s.sent ++ [.emitted out] →
    t.regs.emitCount = s.regs.emitCount + 1#32 ∧
    ∃ u, exec (.line c) t = .next u ∧ u.sent = t.sent ++ [.emitted out] ∧
      u.regs.emitCount = t.regs.emitCount + 1#32)

/-- 10_state.md R22: the only transitions of `PHASE`, its codes, and its reset value. That with a hardware reset
pending the commands and illegal opcodes before it go first, so that the step is a hardware reset only where
`decode` gives `incomplete`, is the model's choice (assumption log entry 8). -/
def Obligations.PhaseMovesOnlyAsListed : Prop :=
  (Phase.run.code = 0#2 ∧ Phase.abort.code = 1#2 ∧ Phase.finished.code = 2#2 ∧
    (∀ p : Phase, p.code ≠ 3#2) ∧ State.reset.regs.phase = .run) ∧
  ∀ s t : State, step s = .next t →
    t.regs.phase = s.regs.phase ∨
    (s.regs.phase = .run ∧ t.regs.phase = .abort ∧ (∃ c rest, decode s.port = .command (.line c) rest) ∧
      ∃ r, t.sent = s.sent ++ [r] ∧ r.fatal = true) ∨
    (s.regs.phase = .run ∧ t.regs.phase = .finished ∧ ∃ rest, decode s.port = .command .finish rest) ∨
    (t.regs.phase = .run ∧ ((∃ rest, decode s.port = .command .reset rest) ∨ decode s.port = .incomplete))

/-- 10_state.md R23: the codes of `ABORT_CAUSE`; only the abort transition writes it, and its code is then the
code of the answer; a reset clears it. That with a hardware reset pending the commands and illegal opcodes
before it go first, so that the step is a hardware reset only where `decode` gives `incomplete`, is the model's
choice (assumption log entry 8). -/
def Obligations.AbortCauseIsWrittenOnlyByTheAbort : Prop :=
  (AbortCause.none.code = 0x0#4 ∧ AbortCause.mismatch.code = 0x3#4 ∧ AbortCause.badHex.code = 0x4#4 ∧
    State.reset.regs.abortCause = .none) ∧
  ∀ s t : State, step s = .next t →
    t.regs.abortCause = s.regs.abortCause ∨
    (s.regs.phase = .run ∧ t.regs.phase = .abort ∧ (∃ c rest, decode s.port = .command (.line c) rest) ∧
      ∃ r, t.sent = s.sent ++ [r] ∧ r.fatal = true ∧ r.code = t.regs.abortCause.code.zeroExtend 8) ∨
    (t.regs.abortCause = .none ∧
      ((∃ rest, decode s.port = .command .reset rest) ∨ decode s.port = .incomplete))

/-- 70_reset_and_hazards.md R247 and 10_state.md R24: the diagnostic registers and `DIAG_VALID` are those of the
last line that reached the engine: only a line in `RUN` answered `EMITTED` or `MISMATCH` writes them, every such
line does, and it sets `DIAG_VALID`; only a reset clears them. That with a hardware reset pending the commands
and illegal opcodes before it go first, so that the step is a hardware reset only where `decode` gives
`incomplete`, is the model's choice (assumption log entry 8). -/
def Obligations.DiagnosticsHoldTheLastProcessedLine : Prop :=
  State.reset.regs.diagValid = false ∧
  ∀ s t : State, step s = .next t →
    (∀ c d rest, decode s.port = .command (.line c) rest → s.regs.phase = .run →
      decodeRecord s.cfg c = .data d →
        t.regs.diagValid = true ∧ t.regs.diagSeq = [s.cfg.hdr0, s.cfg.hdr1] ++ d ∧
        t.regs.diagSum = (engine s.cfg d).sum ∧ t.regs.diagCs = (engine s.cfg d).cs ∧
        t.regs.diagCs2 = (engine s.cfg d).cs2 ∧
        (t.sent = s.sent ++ [.emitted (emit s.cfg d (engine s.cfg d).cs)] ∨
          t.sent = s.sent ++ [.mismatch (engine s.cfg d).sum (engine s.cfg d).cs (engine s.cfg d).cs2])) ∧
    ((t.regs.diagValid = s.regs.diagValid ∧ t.regs.diagSeq = s.regs.diagSeq ∧
        t.regs.diagSum = s.regs.diagSum ∧ t.regs.diagCs = s.regs.diagCs ∧ t.regs.diagCs2 = s.regs.diagCs2) ∨
      (s.regs.phase = .run ∧
        ∃ c d rest, decode s.port = .command (.line c) rest ∧ decodeRecord s.cfg c = .data d) ∨
      (t.regs = Elements.reset s.cfg ∧
        ((∃ rest, decode s.port = .command .reset rest) ∨ decode s.port = .incomplete)))

/-- 10_state.md R27, R28: each line answered `EMITTED` adds 1 to `EMIT_COUNT` and each answered `SKIPPED` adds 1
to `SKIP_COUNT`, modulo 2^32; nothing else changes them but a reset, which makes them 0. That with a hardware
reset pending the commands and illegal opcodes before it go first, so that the step is a hardware reset only
where `decode` gives `incomplete`, is the model's choice (assumption log entry 8). -/
def Obligations.CountersCountTheirAnswers : Prop :=
  ∀ s t : State, step s = .next t →
    (((∃ rest, decode s.port = .command .reset rest) ∨ decode s.port = .incomplete) →
      t.regs.emitCount = 0#32 ∧ t.regs.skipCount = 0#32) ∧
    (¬((∃ rest, decode s.port = .command .reset rest) ∨ decode s.port = .incomplete) →
      ∃ r, t.sent = s.sent ++ [r] ∧
        t.regs.emitCount.toNat = (s.regs.emitCount.toNat + if r.code = 0x02#8 then 1 else 0) % 2 ^ 32 ∧
        t.regs.skipCount.toNat = (s.regs.skipCount.toNat + if r.code = 0x01#8 then 1 else 0) % 2 ^ 32 ∧
        (r.code = 0x02#8 ∨ r.code = 0x01#8 → ∃ c rest, decode s.port = .command (.line c) rest))

/-- 10_state.md R29: only a `BAD_HEX` abort writes `BAD_POS`, with the answered index, in `PREFIX_LEN` ..
`RECORD_LEN - SUFFIX_LEN - 1`; a reset makes it 0. That with a hardware reset pending the commands and illegal
opcodes before it go first, so that the step is a hardware reset only where `decode` gives `incomplete`, is the
model's choice (assumption log entry 8). -/
def Obligations.BadPosIsWrittenOnlyByBadHex : Prop :=
  State.reset.regs.badPos = 0#8 ∧
  ∀ s t : State, s.cfg.legal = true → step s = .next t →
    t.regs.badPos = s.regs.badPos ∨
    (∃ c rest k, decode s.port = .command (.line c) rest ∧ hexcheck s.cfg c = some k ∧
      t.sent = s.sent ++ [.badHex t.regs.badPos] ∧ t.regs.abortCause = .badHex ∧ t.regs.badPos.toNat = k ∧
      9 ≤ k ∧ k ≤ s.cfg.recordLen - 3) ∨
    (t.regs.badPos = 0#8 ∧
      ((∃ rest, decode s.port = .command .reset rest) ∨ decode s.port = .incomplete))

/-- 60_exceptions.md R216: after the abort every line and `FINISH` are answered `IGNORED` and change nothing;
the other commands behave as in `RUN`. -/
def Obligations.AbortRefusesLinesAndFinish : Prop :=
  ∀ s : State, s.regs.phase = .abort →
    (∀ c, exec (.line c) s = .next { s with sent := s.sent ++ [.ignored] }) ∧
    exec .finish s = .next { s with sent := s.sent ++ [.ignored] } ∧
    (∀ p : Phase, ∃ t, exec (.rdreg 0x00#8) { s with regs := { s.regs with phase := p } } = .next t ∧
      t.regs = { s.regs with phase := p } ∧ t.sent = s.sent ++ [.value [statusByte t.regs]]) ∧
    ∀ (i : Instr) (t u : State), (∀ c, i ≠ .line c) → i ≠ .finish → i ≠ .rdreg 0x00#8 →
      exec i s = .next t → exec i { s with regs := { s.regs with phase := .run } } = .next u →
        t.sent = u.sent ∧ (i ≠ .reset → t.regs = s.regs) ∧ (i = .reset → t.regs = u.regs)

/-- 60_exceptions.md R217, R218: `ABORT` is left only by `RESET` or the hardware reset, which set every element
to its reset value; until then no second fatal outcome occurs and the whole record of the abort stays. That with
a hardware reset pending the commands and illegal opcodes before it go first, so that the step is a hardware
reset only where `decode` gives `incomplete`, is the model's choice (assumption log entry 8). -/
def Obligations.AbortIsLeftOnlyByReset : Prop :=
  ∀ s t : State, s.regs.phase = .abort → step s = .next t →
    (t.regs = s.regs ∧ ∃ r, t.sent = s.sent ++ [r] ∧ r.fatal = false) ∨
    (t.regs = Elements.reset s.cfg ∧
      ((∃ rest, decode s.port = .command .reset rest) ∨
        (decode s.port = .incomplete ∧ s.pendingResets ≠ [])))

/-- 10_state.md R36: the reset state, which the `RESET` command and a hardware reset both establish. -/
def Obligations.ResetStateHoldsTheListedValues : Prop :=
  State.reset.regs =
    { phase := .run, abortCause := .none, diagValid := false, diagSeq := List.replicate 18 0x00#8,
      diagSum := 0x00#8, diagCs := 0x00#8, diagCs2 := 0x00#8, badPos := 0x00#8,
      emitCount := 0#32, skipCount := 0#32 } ∧
  ∀ s t : State, (exec .reset s = .next t ∨ (decode s.port = .incomplete ∧ step s = .next t)) →
    t.regs =
      { phase := .run, abortCause := .none, diagValid := false,
        diagSeq := List.replicate s.cfg.nSum 0x00#8,
        diagSum := 0x00#8, diagCs := 0x00#8, diagCs2 := 0x00#8, badPos := 0x00#8,
        emitCount := 0#32, skipCount := 0#32 }

/-- 42_array_emitter.md R151: an output record leaves the block only for a line in `RUN` that passes the length
gate and the hex check and whose checksums agree. -/
def Obligations.RecordsComeOnlyFromAcceptedLines : Prop :=
  ∀ s t : State, step s = .next t → t.sentRecords ≠ s.sentRecords →
    s.regs.phase = .run ∧ ∃ c d rest, decode s.port = .command (.line c) rest ∧
      c.length = s.cfg.recordLen ∧ hexcheck s.cfg c = none ∧ d = toBytes s.cfg c ∧
      (engine s.cfg d).agree = true ∧
      t.sentRecords = s.sentRecords ++
        [[s.cfg.i2cAddr, s.cfg.hdr0, s.cfg.hdr1] ++ d ++ [(engine s.cfg d).cs]]

/-- 92_eei_decisions.md D7, 00_scope.md R11: in `CROSS_B` mode the open parameter `CSA_ZERO` is seen only by
`CSA 0` and by reading `CFG_CSAZ`: with any other value of it, every other command has the same effect and
the same answer. -/
def Obligations.CsaZeroIsSeenOnlyWhereTheSpecReadsIt : Prop :=
  ∀ (i : Instr) (s t : State) (z : Byte), s.cfg.mode = .crossB → i ≠ .csa 0#16 → i ≠ .rdreg 0x0D#8 →
    exec i s = .next t →
      exec i { s with cfg := { s.cfg with csaZero := z } } =
        .next { t with cfg := { s.cfg with csaZero := z } }

/-- 70_reset_and_hazards.md R249: what a step does to the output records since the last reset: an emitted record
goes behind them, a reset leaves none, and nothing else changes them, however many they are. The mark they are
read from is the model's (assumption log entry 6). That with a hardware reset pending the commands and illegal
opcodes before it go first, so that the step is a hardware reset only where `decode` gives `incomplete`, is the
model's choice (assumption log entry 8). -/
def Obligations.RecordsSinceResetGrowByEachRecord : Prop :=
  ∀ s t : State, s.Inv → step s = .next t →
    (((∃ rest, decode s.port = .command .reset rest) ∨ decode s.port = .incomplete) →
      t.recordsSinceReset = []) ∧
    (¬((∃ rest, decode s.port = .command .reset rest) ∨ decode s.port = .incomplete) →
      ∃ r, t.sent = s.sent ++ [r] ∧ t.recordsSinceReset = s.recordsSinceReset ++ r.record.toList)

/-- 70_reset_and_hazards.md R249: a run in `RUN` has no result yet; it ends with a step exactly when that step
answers `FINISH` with `PHASE` = `END`, or answers `MISMATCH` or `BAD_HEX` and leaves `ABORT`; the result is then
the records emitted since the last reset, with the final `PHASE`, `ABORT_CAUSE` and counters; and a stream that
stops inside a command ends no run. That the block's waiting there is a fault is the model's reading
(assumption log entry 7). -/
def Obligations.RunEndsWithItsResult : Prop :=
  ∀ s : State, s.regs.phase = .run →
    s.runResult = none ∧
    (decode s.port = .incomplete → s.pendingResets = [] → ∃ f, step s = .fault f) ∧
    ∀ t, step s = .next t →
      (t.runResult ≠ none ↔
        ((∃ rest, decode s.port = .command .finish rest) ∧ t.sent = s.sent ++ [.ok] ∧
          t.regs.phase = .finished) ∨
        (t.regs.phase = .abort ∧ ∃ r, t.sent = s.sent ++ [r] ∧ (r.code = 0x03#8 ∨ r.code = 0x04#8))) ∧
      ∀ result, t.runResult = some result →
        result = { records := s.recordsSinceReset, phase := t.regs.phase, abortCause := t.regs.abortCause,
                   emitCount := s.regs.emitCount, skipCount := s.regs.skipCount }

/-- 70_reset_and_hazards.md R249, 60_exceptions.md R216, R217 (`ABORT`), 43_commands.md R171, R172, R174 and
10_state.md R22 (`END`): once a run has ended, by `FINISH` or by an abort, no step adds an output record or
counts a line, and only a reset starts another run. That with a hardware reset pending the commands and illegal
opcodes before it go first, so that the step is a hardware reset only where `decode` gives `incomplete`, is the
model's choice (assumption log entry 8). -/
def Obligations.EndedRunStaysEndedUntilReset : Prop :=
  ∀ s t : State, s.runEnded = true → step s = .next t →
    t.sentRecords = s.sentRecords ∧
    ((t.runEnded = true ∧ t.regs = s.regs) ∨
      (t.runEnded = false ∧ t.regs = Elements.reset s.cfg ∧
        ((∃ rest, decode s.port = .command .reset rest) ∨ decode s.port = .incomplete)))

/-- 10_state.md R22 to R29 as one invariant of the machine: every step keeps it. -/
def Obligations.StepKeepsTheInvariant : Prop :=
  ∀ s t : State, s.Inv → step s = .next t → t.Inv

/-- 10_state.md R36: the reset state meets the invariant. -/
def Obligations.ResetMeetsTheInvariant : Prop := State.reset.Inv

/-- 41_checksum_engine.md R130, R131: in a state that meets the invariant, a mismatch abort means `AS_BUILT`
mode and a recorded sum that is not 0, or 0 with `CSA_ZERO` other than 0xFF. -/
def Obligations.MismatchMeansAsBuilt : Prop :=
  ∀ s : State, s.Inv → s.regs.abortCause = .mismatch →
    s.cfg.mode = .asBuilt ∧ (s.regs.diagSum ≠ 0#8 ∨ s.cfg.csaZero ≠ 0xFF#8)

/-! ## Host text -/

/-- 42_array_emitter.md R156: the checksum text is exactly two lower-case hex digits that read back as cs. -/
def Obligations.ChecksumTextReadsBack : Prop :=
  ∀ cs : Byte, ∃ a b : Byte, checksumText cs = [a, b] ∧ tokenByte (a, b) = cs ∧
    (∀ ch, ch = a ∨ ch = b → (0x30 ≤ ch.toNat ∧ ch.toNat ≤ 0x39) ∨ (0x61 ≤ ch.toNat ∧ ch.toNat ≤ 0x66))
end

