-- ==== Sys2Proof/Laws/ChecksumEngine.lean ====
section
/-! SUPPORT. The small lemmas of the Checksum Engine and the Array Emitter. -/

namespace Sys2Proof.Machine

open Sys2Proof

variable (cfg : Config) (d : List Byte)

@[simp] theorem exactSum_nil : exactSum [] = 0 := rfl
@[simp] theorem exactSum_cons (b : Byte) (bs : List Byte) : exactSum (b :: bs) = b.toNat + exactSum bs := by
  simp [exactSum]
@[simp] theorem exactSum_append (as bs : List Byte) : exactSum (as ++ bs) = exactSum as + exactSum bs := by
  simp [exactSum]

theorem engine_seq : (engine cfg d).seq = cfg.hdr0 :: cfg.hdr1 :: d := rfl
theorem engine_sum : (engine cfg d).sum = sumMod256 (cfg.hdr0 :: cfg.hdr1 :: d) := rfl
theorem engine_cs : (engine cfg d).cs = derivationA cfg ((engine cfg d).sum.toNat + 1) := rfl
theorem engine_cs2 : (engine cfg d).cs2 = comparisonValue cfg (engine cfg d).sum := rfl
@[simp] theorem engine_agree : (engine cfg d).agree = true ↔ (engine cfg d).cs = (engine cfg d).cs2 := by
  simp [engine]

@[simp] theorem emit_eq (cs : Byte) :
    emit cfg d cs = [cfg.i2cAddr, cfg.hdr0, cfg.hdr1] ++ d ++ [cs] := rfl
theorem emit_length (cs : Byte) (h : d.length = cfg.nData) : (emit cfg d cs).length = cfg.nOut := by
  simp only [emit, List.length_append, List.length_cons, List.length_nil, h, Config.nOut]

/-- One more response is at most one more output record (R151, R152). -/
theorem sentRecords_append {s t : State} {r : Response} (h : t.sent = s.sent ++ [r]) :
    t.sentRecords = s.sentRecords ++ r.record.toList := by
  simp only [State.sentRecords, h, List.filterMap_append]
  cases r <;> rfl

/-- The records of the run grow by the record of one more response, if it carries one (R249). -/
theorem recordsSinceReset_append {s t : State} {r : Response} (h : t.sent = s.sent ++ [r])
    (hm : t.sentAtReset = s.sentAtReset) (hi : s.sentAtReset ≤ s.sent.length) :
    t.recordsSinceReset = s.recordsSinceReset ++ r.record.toList := by
  simp only [State.recordsSinceReset, h, hm, List.drop_append_of_le_length hi, List.filterMap_append]
  cases r <;> rfl

/-- The records of the run are those of what was sent behind the mark (R249). -/
theorem recordsSinceReset_of_mark {t : State} {before after : List Response} (hs : t.sent = before ++ after)
    (hm : t.sentAtReset = before.length) : t.recordsSinceReset = after.filterMap Response.record := by
  simp only [State.recordsSinceReset, hs, hm, List.drop_left]

end Sys2Proof.Machine
end

