-- ==== Sys2Proof/Laws/Decode.lean ====
section
/-! SUPPORT. The small lemmas of the decoder and the encoder: the opcode map entry by entry, and the two bytes
of a 16-bit field. -/

namespace Sys2Proof

variable (lo hi op v : Byte) (rest body : List Byte)

@[simp] theorem decode_nil : decode [] = .incomplete := rfl
@[simp] theorem decode_reset : decode (0x01#8 :: rest) = .command .reset rest := rfl
@[simp] theorem decode_line : decode (0x02#8 :: rest) = decodeCounted .line rest := rfl
@[simp] theorem decode_finish : decode (0x03#8 :: rest) = .command .finish rest := rfl
@[simp] theorem decode_rdreg : decode (0x04#8 :: rest) = decodeByteOperand .rdreg rest := rfl
@[simp] theorem decode_rsum : decode (0x05#8 :: rest) = decodeCounted .rsum rest := rfl
@[simp] theorem decode_csa : decode (0x06#8 :: rest) = decodeHalfOperand .csa rest := rfl
@[simp] theorem decode_csb : decode (0x07#8 :: rest) = decodeByteOperand .csb rest := rfl

/-- The legal opcodes are 0x01 to 0x07; every other is illegal (R75, R78). -/
theorem decode_illegal (h : op.toNat = 0 ∨ 8 ≤ op.toNat) : decode (op :: rest) = .illegal op rest := by
  simp only [decode]
  split <;> first | rfl | omega

/-- A first byte is an illegal opcode or one of the seven (R75). -/
theorem opcode_cases : (op.toNat = 0 ∨ 8 ≤ op.toNat) ∨ op = 0x01#8 ∨ op = 0x02#8 ∨ op = 0x03#8 ∨
    op = 0x04#8 ∨ op = 0x05#8 ∨ op = 0x06#8 ∨ op = 0x07#8 := by
  revert op
  decide

@[simp] theorem decodeByteOperand_cons (mk : Byte → Instr) :
    decodeByteOperand mk (v :: rest) = .command (mk v) rest := rfl
@[simp] theorem decodeByteOperand_nil (mk : Byte → Instr) : decodeByteOperand mk [] = .incomplete := rfl
@[simp] theorem decodeHalfOperand_cons (mk : Half → Instr) :
    decodeHalfOperand mk (lo :: hi :: rest) = .command (mk (BitVec.ofNat 16 (le16 lo hi))) rest := rfl

/-- A counted operand that is all there is taken off, and nothing more (R76, R86). -/
theorem decodeCounted_complete (mk : List Byte → Instr) (h : body.length = le16 lo hi) :
    decodeCounted mk (lo :: hi :: (body ++ rest)) = .command (mk body) rest := by
  simp [decodeCounted, ← h]

/-- A counted operand of which bytes are missing is no command yet (R82). -/
theorem decodeCounted_short (mk : List Byte → Instr) (h : body.length < le16 lo hi) :
    decodeCounted mk (lo :: hi :: body) = .incomplete := by
  simp [decodeCounted, h]

theorem le16_lt : le16 lo hi < 65536 := by
  have := lo.isLt; have := hi.isLt; unfold le16; omega

/-- The two bytes of a 16-bit field put together again (R53). -/
@[simp] theorem le16_low_high (n : Nat) (h : n < 65536) : le16 (lowByte n) (highByte n) = n := by
  simp only [le16, lowByte, highByte, BitVec.toNat_ofNat]
  omega

@[simp] theorem lowByte_le16 : lowByte (le16 lo hi) = lo := by
  apply BitVec.eq_of_toNat_eq
  have := lo.isLt
  simp only [le16, lowByte, BitVec.toNat_ofNat]
  omega

@[simp] theorem highByte_le16 : highByte (le16 lo hi) = hi := by
  apply BitVec.eq_of_toNat_eq
  have := lo.isLt; have := hi.isLt
  simp only [le16, highByte, BitVec.toNat_ofNat]
  omega

end Sys2Proof
end

