-- ==== Sys2Proof/Laws/PerInstr.lean ====
section
/-! SUPPORT. A statement about every command as syntax, one lemma per constructor: the bytes of a well-formed
command tell their own number (30_encoding.md R86). -/

namespace Sys2Proof.Laws.EncodedLength

open Sys2Proof

/-- The length that R86 reads from the encoding of a command is the length of that encoding. -/
def Statement (i : Instr) : Prop := i.wf = true → commandLength (encode i) = some (encode i).length

theorem reset : Statement .reset := fun _ => rfl

theorem line (c : List Byte) : Statement (.line c) := by
  intro h
  simp only [Instr.wf, fitsLength, decide_eq_true_eq] at h
  simp only [commandLength, encode, encodeCounted, List.length_cons, le16_low_high _ h]
  exact congrArg some (by omega)

theorem finish : Statement .finish := fun _ => rfl

theorem rdreg (idx : Byte) : Statement (.rdreg idx) := fun _ => rfl

theorem rsum (b : List Byte) : Statement (.rsum b) := by
  intro h
  simp only [Instr.wf, fitsLength, decide_eq_true_eq] at h
  simp only [commandLength, encode, encodeCounted, List.length_cons, le16_low_high _ h]
  exact congrArg some (by omega)

theorem csa (v : Half) : Statement (.csa v) := fun _ => rfl

theorem csb (v : Byte) : Statement (.csb v) := fun _ => rfl

end Sys2Proof.Laws.EncodedLength
end

