-- ==== Sys2Proof/Laws/RecordDecoder.lean ====
section
/-! SUPPORT. The small lemmas of the Record Decoder. -/

namespace Sys2Proof.Machine

open Sys2Proof

variable (cfg : Config) (c : List Byte)

@[simp] theorem gate_iff (n : Nat) : gate cfg n = true ↔ n = cfg.recordLen := by simp [gate]

/-- A legal `RECORD_LEN` has an even number of payload characters (R7, R55). -/
theorem nPayChars_even (h : cfg.legal = true) : cfg.nPayChars = 2 * cfg.nData := by
  simp only [Config.legal, Bool.and_eq_true, decide_eq_true_eq, beq_iff_eq] at h
  simp only [Config.nData, Config.nPayChars, prefixLen, suffixLen]
  omega

theorem payload_length (h : c.length = cfg.recordLen) : (payload cfg c).length = cfg.nPayChars := by
  simp only [payload, List.length_take, List.length_drop, h, Config.nPayChars, prefixLen, suffixLen]
  omega

theorem payload_getElem? (k : Nat) :
    (payload cfg c)[k]? = if k < cfg.nPayChars then (c.drop prefixLen)[k]? else none := by
  simp [payload, List.getElem?_take]

theorem pairUp_length (l : List Byte) : (pairUp l).length = l.length / 2 := by
  induction l using pairUp.induct with
  | case1 a b rest ih => simp only [pairUp, List.length_cons, ih]; omega
  | case2 l h =>
    exact match l, h with
    | [], _ => rfl
    | [_], _ => by simp [pairUp]
    | a :: b :: rest, h => absurd rfl (h a b rest)

theorem toBytes_length (h : c.length = cfg.recordLen) : (toBytes cfg c).length = cfg.nData := by
  simp [toBytes, tokens, pairUp_length, payload_length cfg c h, Config.nData]

/-- The three results of the decoder and when each comes (R106). -/
theorem decodeRecord_cases :
    (decodeRecord cfg c = .skip ∧ c.length ≠ cfg.recordLen) ∨
    (∃ k, decodeRecord cfg c = .badHex k ∧ c.length = cfg.recordLen ∧ hexcheck cfg c = some k) ∨
    (decodeRecord cfg c = .data (toBytes cfg c) ∧ c.length = cfg.recordLen ∧ hexcheck cfg c = none) := by
  by_cases hl : c.length = cfg.recordLen
  · cases hk : hexcheck cfg c with
    | none => exact .inr (.inr ⟨by simp [decodeRecord, hl, hk, gate], hl, rfl⟩)
    | some k => exact .inr (.inl ⟨k, by simp [decodeRecord, hl, hk, gate], hl, rfl⟩)
  · exact .inl ⟨by simp [decodeRecord, gate, hl], hl⟩

end Sys2Proof.Machine
end

