-- ==== Sys2Proof/Laws/State.lean ====
section
/-! SUPPORT. What each named update of the state leaves and sets, one lemma per field. -/

namespace Sys2Proof.Machine

open Sys2Proof

variable (s : State) (r : Response) (e : EngineResult) (x y z : Byte) (k : Nat)

@[simp] theorem State.respond_cfg : (s.respond r).cfg = s.cfg := rfl
@[simp] theorem State.respond_port : (s.respond r).port = s.port := rfl
@[simp] theorem State.respond_pendingResets : (s.respond r).pendingResets = s.pendingResets := rfl
@[simp] theorem State.respond_sent : (s.respond r).sent = s.sent ++ [r] := rfl
@[simp] theorem State.respond_sentAtReset : (s.respond r).sentAtReset = s.sentAtReset := rfl
@[simp] theorem State.respond_regs : (s.respond r).regs = s.regs := rfl

@[simp] theorem State.countSkip_cfg : s.countSkip.cfg = s.cfg := rfl
@[simp] theorem State.countSkip_port : s.countSkip.port = s.port := rfl
@[simp] theorem State.countSkip_pendingResets : s.countSkip.pendingResets = s.pendingResets := rfl
@[simp] theorem State.countSkip_sent : s.countSkip.sent = s.sent := rfl
@[simp] theorem State.countSkip_sentAtReset : s.countSkip.sentAtReset = s.sentAtReset := rfl
@[simp] theorem State.countSkip_phase : s.countSkip.regs.phase = s.regs.phase := rfl
@[simp] theorem State.countSkip_abortCause : s.countSkip.regs.abortCause = s.regs.abortCause := rfl
@[simp] theorem State.countSkip_diagValid : s.countSkip.regs.diagValid = s.regs.diagValid := rfl
@[simp] theorem State.countSkip_diagSeq : s.countSkip.regs.diagSeq = s.regs.diagSeq := rfl
@[simp] theorem State.countSkip_diagSum : s.countSkip.regs.diagSum = s.regs.diagSum := rfl
@[simp] theorem State.countSkip_diagCs : s.countSkip.regs.diagCs = s.regs.diagCs := rfl
@[simp] theorem State.countSkip_diagCs2 : s.countSkip.regs.diagCs2 = s.regs.diagCs2 := rfl
@[simp] theorem State.countSkip_badPos : s.countSkip.regs.badPos = s.regs.badPos := rfl
@[simp] theorem State.countSkip_emitCount : s.countSkip.regs.emitCount = s.regs.emitCount := rfl
@[simp] theorem State.countSkip_skipCount : s.countSkip.regs.skipCount = s.regs.skipCount + 1#32 := rfl

@[simp] theorem State.countEmit_cfg : s.countEmit.cfg = s.cfg := rfl
@[simp] theorem State.countEmit_port : s.countEmit.port = s.port := rfl
@[simp] theorem State.countEmit_pendingResets : s.countEmit.pendingResets = s.pendingResets := rfl
@[simp] theorem State.countEmit_sent : s.countEmit.sent = s.sent := rfl
@[simp] theorem State.countEmit_sentAtReset : s.countEmit.sentAtReset = s.sentAtReset := rfl
@[simp] theorem State.countEmit_phase : s.countEmit.regs.phase = s.regs.phase := rfl
@[simp] theorem State.countEmit_abortCause : s.countEmit.regs.abortCause = s.regs.abortCause := rfl
@[simp] theorem State.countEmit_diagValid : s.countEmit.regs.diagValid = s.regs.diagValid := rfl
@[simp] theorem State.countEmit_diagSeq : s.countEmit.regs.diagSeq = s.regs.diagSeq := rfl
@[simp] theorem State.countEmit_diagSum : s.countEmit.regs.diagSum = s.regs.diagSum := rfl
@[simp] theorem State.countEmit_diagCs : s.countEmit.regs.diagCs = s.regs.diagCs := rfl
@[simp] theorem State.countEmit_diagCs2 : s.countEmit.regs.diagCs2 = s.regs.diagCs2 := rfl
@[simp] theorem State.countEmit_badPos : s.countEmit.regs.badPos = s.regs.badPos := rfl
@[simp] theorem State.countEmit_emitCount : s.countEmit.regs.emitCount = s.regs.emitCount + 1#32 := rfl
@[simp] theorem State.countEmit_skipCount : s.countEmit.regs.skipCount = s.regs.skipCount := rfl

@[simp] theorem State.recordDiag_cfg : (s.recordDiag e).cfg = s.cfg := rfl
@[simp] theorem State.recordDiag_port : (s.recordDiag e).port = s.port := rfl
@[simp] theorem State.recordDiag_pendingResets : (s.recordDiag e).pendingResets = s.pendingResets := rfl
@[simp] theorem State.recordDiag_sent : (s.recordDiag e).sent = s.sent := rfl
@[simp] theorem State.recordDiag_sentAtReset : (s.recordDiag e).sentAtReset = s.sentAtReset := rfl
@[simp] theorem State.recordDiag_phase : (s.recordDiag e).regs.phase = s.regs.phase := rfl
@[simp] theorem State.recordDiag_abortCause : (s.recordDiag e).regs.abortCause = s.regs.abortCause := rfl
@[simp] theorem State.recordDiag_diagValid : (s.recordDiag e).regs.diagValid = true := rfl
@[simp] theorem State.recordDiag_diagSeq : (s.recordDiag e).regs.diagSeq = e.seq := rfl
@[simp] theorem State.recordDiag_diagSum : (s.recordDiag e).regs.diagSum = e.sum := rfl
@[simp] theorem State.recordDiag_diagCs : (s.recordDiag e).regs.diagCs = e.cs := rfl
@[simp] theorem State.recordDiag_diagCs2 : (s.recordDiag e).regs.diagCs2 = e.cs2 := rfl
@[simp] theorem State.recordDiag_badPos : (s.recordDiag e).regs.badPos = s.regs.badPos := rfl
@[simp] theorem State.recordDiag_emitCount : (s.recordDiag e).regs.emitCount = s.regs.emitCount := rfl
@[simp] theorem State.recordDiag_skipCount : (s.recordDiag e).regs.skipCount = s.regs.skipCount := rfl

@[simp] theorem State.resetElements_cfg : s.resetElements.cfg = s.cfg := rfl
@[simp] theorem State.resetElements_port : s.resetElements.port = s.port := rfl
@[simp] theorem State.resetElements_pendingResets : s.resetElements.pendingResets = s.pendingResets := rfl
@[simp] theorem State.resetElements_sent : s.resetElements.sent = s.sent := rfl
@[simp] theorem State.resetElements_sentAtReset : s.resetElements.sentAtReset = s.sent.length := rfl
@[simp] theorem State.resetElements_regs : s.resetElements.regs = Elements.reset s.cfg := rfl

@[simp] theorem State.abort_mismatch_cfg : (s.abort (.mismatch x y z)).cfg = s.cfg := rfl
@[simp] theorem State.abort_mismatch_port : (s.abort (.mismatch x y z)).port = s.port := rfl
@[simp] theorem State.abort_mismatch_pendingResets : (s.abort (.mismatch x y z)).pendingResets = s.pendingResets := rfl
@[simp] theorem State.abort_mismatch_sent : (s.abort (.mismatch x y z)).sent = s.sent ++ [.mismatch x y z] := rfl
@[simp] theorem State.abort_mismatch_sentAtReset : (s.abort (.mismatch x y z)).sentAtReset = s.sentAtReset := rfl
@[simp] theorem State.abort_mismatch_phase : (s.abort (.mismatch x y z)).regs.phase = .abort := rfl
@[simp] theorem State.abort_mismatch_abortCause : (s.abort (.mismatch x y z)).regs.abortCause = .mismatch := rfl
@[simp] theorem State.abort_mismatch_diagValid : (s.abort (.mismatch x y z)).regs.diagValid = s.regs.diagValid := rfl
@[simp] theorem State.abort_mismatch_diagSeq : (s.abort (.mismatch x y z)).regs.diagSeq = s.regs.diagSeq := rfl
@[simp] theorem State.abort_mismatch_diagSum : (s.abort (.mismatch x y z)).regs.diagSum = s.regs.diagSum := rfl
@[simp] theorem State.abort_mismatch_diagCs : (s.abort (.mismatch x y z)).regs.diagCs = s.regs.diagCs := rfl
@[simp] theorem State.abort_mismatch_diagCs2 : (s.abort (.mismatch x y z)).regs.diagCs2 = s.regs.diagCs2 := rfl
@[simp] theorem State.abort_mismatch_badPos : (s.abort (.mismatch x y z)).regs.badPos = s.regs.badPos := rfl
@[simp] theorem State.abort_mismatch_emitCount : (s.abort (.mismatch x y z)).regs.emitCount = s.regs.emitCount := rfl
@[simp] theorem State.abort_mismatch_skipCount : (s.abort (.mismatch x y z)).regs.skipCount = s.regs.skipCount := rfl

@[simp] theorem State.abort_badHex_cfg : (s.abort (.badHex k)).cfg = s.cfg := rfl
@[simp] theorem State.abort_badHex_port : (s.abort (.badHex k)).port = s.port := rfl
@[simp] theorem State.abort_badHex_pendingResets : (s.abort (.badHex k)).pendingResets = s.pendingResets := rfl
@[simp] theorem State.abort_badHex_sent : (s.abort (.badHex k)).sent = s.sent ++ [.badHex (BitVec.ofNat 8 k)] := rfl
@[simp] theorem State.abort_badHex_sentAtReset : (s.abort (.badHex k)).sentAtReset = s.sentAtReset := rfl
@[simp] theorem State.abort_badHex_phase : (s.abort (.badHex k)).regs.phase = .abort := rfl
@[simp] theorem State.abort_badHex_abortCause : (s.abort (.badHex k)).regs.abortCause = .badHex := rfl
@[simp] theorem State.abort_badHex_diagValid : (s.abort (.badHex k)).regs.diagValid = s.regs.diagValid := rfl
@[simp] theorem State.abort_badHex_diagSeq : (s.abort (.badHex k)).regs.diagSeq = s.regs.diagSeq := rfl
@[simp] theorem State.abort_badHex_diagSum : (s.abort (.badHex k)).regs.diagSum = s.regs.diagSum := rfl
@[simp] theorem State.abort_badHex_diagCs : (s.abort (.badHex k)).regs.diagCs = s.regs.diagCs := rfl
@[simp] theorem State.abort_badHex_diagCs2 : (s.abort (.badHex k)).regs.diagCs2 = s.regs.diagCs2 := rfl
@[simp] theorem State.abort_badHex_badPos : (s.abort (.badHex k)).regs.badPos = BitVec.ofNat 8 k := rfl
@[simp] theorem State.abort_badHex_emitCount : (s.abort (.badHex k)).regs.emitCount = s.regs.emitCount := rfl
@[simp] theorem State.abort_badHex_skipCount : (s.abort (.badHex k)).regs.skipCount = s.regs.skipCount := rfl

section reset

variable (cfg : Config)

@[simp] theorem Elements.reset_phase : (Elements.reset cfg).phase = .run := rfl
@[simp] theorem Elements.reset_abortCause : (Elements.reset cfg).abortCause = .none := rfl
@[simp] theorem Elements.reset_diagValid : (Elements.reset cfg).diagValid = false := rfl
@[simp] theorem Elements.reset_diagSeq : (Elements.reset cfg).diagSeq = List.replicate cfg.nSum 0#8 := rfl
@[simp] theorem Elements.reset_diagSum : (Elements.reset cfg).diagSum = 0#8 := rfl
@[simp] theorem Elements.reset_diagCs : (Elements.reset cfg).diagCs = 0#8 := rfl
@[simp] theorem Elements.reset_diagCs2 : (Elements.reset cfg).diagCs2 = 0#8 := rfl
@[simp] theorem Elements.reset_badPos : (Elements.reset cfg).badPos = 0#8 := rfl
@[simp] theorem Elements.reset_emitCount : (Elements.reset cfg).emitCount = 0#32 := rfl
@[simp] theorem Elements.reset_skipCount : (Elements.reset cfg).skipCount = 0#32 := rfl

end reset

end Sys2Proof.Machine
end

