-- ==== Sys2Proof/Laws/Step.lean ====
section
/-! SUPPORT. Everything a step and each meaning can do, said once: an equation or an inversion lemma for each.
Later proofs cite these and unfold no meaning. -/

namespace Sys2Proof.Machine

open Sys2Proof

/-- What a step can be: a command, an illegal opcode, or a hardware reset (R170, R78, R240). -/
theorem step_cases {s t : State} (h : step s = .next t) :
    (∃ i rest, decode s.port = .command i rest ∧ exec i { s with port := rest } = .next t) ∨
    (∃ op rest, decode s.port = .illegal op rest ∧
      t = { s with port := rest, sent := s.sent ++ [.illegalCmd op] }) ∨
    (∃ bytes more, decode s.port = .incomplete ∧ s.pendingResets = bytes :: more ∧
      t = { s with regs := Elements.reset s.cfg, port := bytes, pendingResets := more,
                   sentAtReset := s.sent.length }) := by
  unfold step State.fetch at h
  cases hd : decode s.port with
  | command i rest => simp only [hd] at h; exact .inl ⟨i, rest, rfl, h⟩
  | illegal op rest =>
    simp only [hd, execIllegal, Host.Outcome.next.injEq] at h
    exact .inr (.inl ⟨op, rest, rfl, h.symm⟩)
  | incomplete =>
    cases hp : s.pendingResets with
    | nil => simp [hd, hp] at h
    | cons bytes more =>
      simp only [hd, hp, execHardwareReset, Host.Outcome.next.injEq] at h
      exact .inr (.inr ⟨bytes, more, rfl, rfl, h.symm⟩)

/-- When a step stops: nothing complete stands on the port and no reset is pending (R82). -/
theorem step_fault_cases {s : State} {f : Fault} (h : step s = .fault f) :
    decode s.port = .incomplete ∧ s.pendingResets = [] := by
  unfold step State.fetch at h
  cases hd : decode s.port with
  | command i rest =>
    simp only [hd] at h
    cases i <;> simp only [exec, execReset, execLine, execFinish, execRdreg, execRsum, execCsa, execCsb] at h <;>
      (try split at h) <;> simp at h
  | illegal op rest => simp [hd, execIllegal] at h
  | incomplete =>
    cases hp : s.pendingResets with
    | nil => exact ⟨rfl, rfl⟩
    | cons bytes more => simp [hd, hp, execHardwareReset] at h

/-- A run of k + 1 steps whose first step answers t is a run of k steps from t. -/
theorem run_succ {s t : State} (h : step s = .next t) (k : Nat) :
    Host.Core.run Sys2Proof.core (k + 1) s = Host.Core.run Sys2Proof.core k t := by
  have unfolded : ∀ (M : Host.Core) (x y : M.State), M.step x = .next y → M.run (k + 1) x = M.run k y := by
    intro M x y hxy
    simp only [Host.Core.run, hxy]
  exact unfolded Sys2Proof.core s t h

theorem execReset_eq (s : State) :
    exec .reset s = .next { s with
      regs := Elements.reset s.cfg, sent := s.sent ++ [.ok], sentAtReset := s.sent.length } := rfl

theorem execCsb_eq (v : Byte) (s : State) :
    exec (.csb v) s = .next { s with sent := s.sent ++ [.value [derivationB v]] } := rfl

/-- Everything `FINISH` can do (R174). -/
theorem execFinish_eq (s : State) :
    exec .finish s = .next { s with
      regs := { s.regs with phase := if s.regs.phase = .run then .finished else s.regs.phase }
      sent := s.sent ++ [if s.regs.phase = .abort then .ignored else .ok] } := by
  cases h : s.regs.phase <;> simp [exec, execFinish, h, State.respond] <;> (rw [← h])

/-- Everything `RDREG` can do (R175). -/
theorem execRdreg_eq (idx : Byte) (s : State) :
    exec (.rdreg idx) s = .next { s with sent := s.sent ++
      [(registerAt s.cfg idx).elim (.badOperand 0x04#8) fun r => .value (r.snapshot s.cfg s.regs)] } := by
  cases h : registerAt s.cfg idx <;> simp [exec, execRdreg, h, State.respond]

/-- Everything `RSUM` can do (R176). -/
theorem execRsum_eq (b : List Byte) (s : State) :
    exec (.rsum b) s = .next { s with sent := s.sent ++
      [if b = [] then .badOperand 0x05#8 else .value [runningSum b]] } := by
  cases b <;> simp [exec, execRsum, rsumInDomain, State.respond]

/-- Everything `CSA` can do (R177). -/
theorem execCsa_eq (v : Half) (s : State) :
    exec (.csa v) s = .next { s with sent := s.sent ++
      [if v.toNat ≤ 256 then .value [derivationA s.cfg v.toNat] else .badOperand 0x06#8] } := by
  by_cases h : v.toNat ≤ 256 <;> simp [exec, execCsa, csaInDomain, h, State.respond]

/-- Everything `LINE` can do: its five answers, with the condition and the whole effect of each (R172). -/
theorem execLine_cases (c : List Byte) (s : State) :
    (s.regs.phase ≠ .run ∧ exec (.line c) s = .next { s with sent := s.sent ++ [.ignored] }) ∨
    (s.regs.phase = .run ∧ decodeRecord s.cfg c = .skip ∧ c.length ≠ s.cfg.recordLen ∧
      exec (.line c) s = .next { s with
        regs := { s.regs with skipCount := s.regs.skipCount + 1#32 }, sent := s.sent ++ [.skipped] }) ∨
    (∃ k, s.regs.phase = .run ∧ decodeRecord s.cfg c = .badHex k ∧ c.length = s.cfg.recordLen ∧
      hexcheck s.cfg c = some k ∧
      exec (.line c) s = .next { s with
        regs := { s.regs with phase := .abort, abortCause := .badHex, badPos := BitVec.ofNat 8 k },
        sent := s.sent ++ [.badHex (BitVec.ofNat 8 k)] }) ∨
    (∃ e, e = engine s.cfg (toBytes s.cfg c) ∧ s.regs.phase = .run ∧
      decodeRecord s.cfg c = .data (toBytes s.cfg c) ∧ c.length = s.cfg.recordLen ∧
      hexcheck s.cfg c = none ∧ e.agree = false ∧
      exec (.line c) s = .next { s with
        regs := { s.regs with
          phase := .abort, abortCause := .mismatch,
          diagValid := true, diagSeq := e.seq, diagSum := e.sum, diagCs := e.cs, diagCs2 := e.cs2 },
        sent := s.sent ++ [.mismatch e.sum e.cs e.cs2] }) ∨
    (∃ e, e = engine s.cfg (toBytes s.cfg c) ∧ s.regs.phase = .run ∧
      decodeRecord s.cfg c = .data (toBytes s.cfg c) ∧ c.length = s.cfg.recordLen ∧
      hexcheck s.cfg c = none ∧ e.agree = true ∧
      exec (.line c) s = .next { s with
        regs := { s.regs with
          diagValid := true, diagSeq := e.seq, diagSum := e.sum, diagCs := e.cs, diagCs2 := e.cs2,
          emitCount := s.regs.emitCount + 1#32 },
        sent := s.sent ++ [.emitted (emit s.cfg (toBytes s.cfg c) e.cs)] }) := by
  by_cases hp : s.regs.phase = .run
  · right
    have hx : exec (.line c) s = .next (processLine s c) := by simp only [exec, execLine, hp]
    rw [hx]
    rcases decodeRecord_cases s.cfg c with ⟨hd, hl⟩ | ⟨k, hd, hl, hk⟩ | ⟨hd, hl, hk⟩
    · exact .inl ⟨hp, hd, hl, by simp only [processLine, hd]; rfl⟩
    · exact .inr (.inl ⟨k, hp, hd, hl, hk, by simp only [processLine, hd]; rfl⟩)
    · cases ha : (engine s.cfg (toBytes s.cfg c)).agree
      · refine .inr (.inr (.inl ⟨_, rfl, hp, hd, hl, hk, ha, ?_⟩))
        simp only [processLine, hd, finishLine, ha]; rfl
      · refine .inr (.inr (.inr ⟨_, rfl, hp, hd, hl, hk, ha, ?_⟩))
        simp only [processLine, hd, finishLine, ha]; rfl
  · left
    refine ⟨hp, ?_⟩
    cases h : s.regs.phase <;> simp_all [exec, execLine, State.respond]

end Sys2Proof.Machine
end

