-- ==== Sys2Proof/Tests/Slice0.lean ====
section
/-! SUPPORT. Tests against the spec's own vectors (95_test_vectors.md) and the corner cases of its rules, and
for each obligation with hypotheses a concrete case that meets them. No expected value comes from the
model. -/

namespace Sys2Proof.Tests

open Sys2Proof Sys2Proof.Machine

/-! ## Lines and states -/

/-- The line EX of 95_test_vectors.md: the worked example of the source. -/
def ex : List Byte :=
  ([0x3A, 0x31, 0x30, 0x31, 0x43, 0x31, 0x30, 0x30, 0x30, 0x46, 0x46, 0x38, 0x30, 0x30, 0x30, 0x44,
    0x36, 0x45, 0x41, 0x46, 0x37, 0x37, 0x43, 0x33, 0x36, 0x38, 0x30, 0x37, 0x43, 0x30, 0x30, 0x46,
    0x46, 0x35, 0x44, 0x34, 0x38, 0x38, 0x45, 0x35, 0x44, 0x35, 0x31] : List Nat).map (BitVec.ofNat 8)

/-- EXL: EX in lower case. -/
def exl : List Byte :=
  ex.map fun ch => if 0x41#8 ≤ ch && ch ≤ 0x5A#8 then ch + 0x20#8 else ch

/-- BAD: EX with `G` at position 12 and `Z` at position 30. -/
def bad : List Byte := (ex.set 12 0x47#8).set 30 0x5A#8

/-- XPRE: EX with `X` at position 0. -/
def xpre : List Byte := ex.set 0 0x58#8

/-- S0: header bytes and data sum to 0. -/
def s0 : List Byte :=
  ([0x3A, 0x31, 0x30, 0x30, 0x30, 0x30, 0x30, 0x30, 0x30, 0x41, 0x46, 0x30, 0x30, 0x30, 0x30, 0x30,
    0x30, 0x30, 0x30, 0x30, 0x30, 0x30, 0x30, 0x30, 0x30, 0x30, 0x30, 0x30, 0x30, 0x30, 0x30, 0x30,
    0x30, 0x30, 0x30, 0x30, 0x30, 0x30, 0x30, 0x30, 0x30, 0x34, 0x31] : List Nat).map (BitVec.ofNat 8)

/-- A state of the default parameters with a chosen mode, `CSA_ZERO` and phase, all else as after reset. -/
def demo (mode : ValidationMode) (z : Byte) (phase : Phase) : State :=
  let cfg : Config := { mode := mode, csaZero := z, portBase := 0 }
  { cfg := cfg, regs := { Elements.reset cfg with phase := phase }, port := [], pendingResets := [], sent := [],
    sentAtReset := 0 }

/-- The default mode, in `RUN`. -/
def plain : State := demo .crossB 0x5A#8 .run

/-- What a command or step has answered in all, none where it stops. -/
def answer : Result → Option (List Response)
  | .next t => some t.sent
  | .fault _ => none
  | .refused _ => none

/-- The elements a command or step leaves, none where it stops. -/
def elements : Result → Option Elements
  | .next t => some t.regs
  | .fault _ => none
  | .refused _ => none

theorem next_of_answer {r : Result} {rs : List Response} (h : answer r = some rs) :
    ∃ t, r = .next t ∧ t.sent = rs := by
  cases r with
  | next t => exact ⟨t, rfl, by simpa [answer] using h⟩
  | fault f => simp [answer] at h
  | refused f => simp [answer] at h

theorem next_of_elements {r : Result} {e : Elements} (h : elements r = some e) :
    ∃ t, r = .next t ∧ t.regs = e := by
  cases r with
  | next t => exact ⟨t, rfl, by simpa [elements] using h⟩
  | fault f => simp [elements] at h
  | refused f => simp [elements] at h

/-! ## Well-formedness: the ill-formed term of each check is refused -/

theorem test_line_too_long_is_ill_formed : Instr.wf (.line (List.replicate 65536 0x30#8)) = false :=
  (congrArg fitsLength List.length_replicate).trans (by decide)

theorem test_rsum_too_long_is_ill_formed : Instr.wf (.rsum (List.replicate 65536 0x00#8)) = false :=
  (congrArg fitsLength List.length_replicate).trans (by decide)

theorem test_longest_line_is_well_formed : Instr.wf (.line (List.replicate 65535 0x30#8)) = true :=
  (congrArg fitsLength List.length_replicate).trans (by decide)

/-! ## Decoding: words written out from 30_encoding.md R75, R84 and 95_test_vectors.md -/

theorem test_decode_reset : decode [0x01#8] = .command .reset [] := by decide
theorem test_decode_line_eof : decode [0x02#8, 0x0B#8, 0x00#8, 0x3A#8, 0x30#8, 0x30#8, 0x30#8, 0x30#8, 0x30#8,
    0x30#8, 0x30#8, 0x31#8, 0x46#8, 0x46#8] = .command (.line [0x3A#8, 0x30#8, 0x30#8, 0x30#8, 0x30#8, 0x30#8,
    0x30#8, 0x30#8, 0x31#8, 0x46#8, 0x46#8]) [] := by decide
theorem test_decode_line_length_high_byte : decode [0x02#8, 0x00#8, 0x01#8, 0x3A#8] = .incomplete := by decide
theorem test_decode_finish : decode [0x03#8] = .command .finish [] := by decide
theorem test_decode_rdreg : decode [0x04#8, 0x08#8] = .command (.rdreg 0x08#8) [] := by decide
theorem test_decode_rsum : decode [0x05#8, 0x03#8, 0x00#8, 0x41#8, 0x10#8, 0xAA#8, 0x00#8] =
    .command (.rsum [0x41#8, 0x10#8, 0xAA#8]) [0x00#8] := by decide
theorem test_decode_csa_256 : decode [0x06#8, 0x00#8, 0x01#8] = .command (.csa 256#16) [] := by decide
theorem test_decode_csb : decode [0x07#8, 0xC4#8] = .command (.csb 0xC4#8) [] := by decide
theorem test_decode_zero_is_illegal : decode [0x00#8, 0x01#8] = .illegal 0x00#8 [0x01#8] := by decide
theorem test_decode_eight_is_illegal : decode [0x08#8] = .illegal 0x08#8 [] := by decide
theorem test_table_word_line : decodeTableWord 8 0x02 = some (.line []) := by decide
theorem test_table_word_csa : decodeTableWord 24 0x010106 = some (.csa 257#16) := by decide
theorem test_fetch_word_runs_first : answer (step (State.reset.withFetchWord 16 0xC407)) =
    some [.value [0x3B#8]] := by decide

/-! ## The commands (95_test_vectors.md V1, V5 to V9, V13, V18, V21 to V23, P1 to P5) -/

/-- V1. -/
theorem test_line_ex_is_emitted : answer (exec (.line ex) plain) = some [.emitted
    [0x08#8, 0x41#8, 0x10#8, 0xFF#8, 0x80#8, 0x00#8, 0xD6#8, 0xEA#8, 0xF7#8, 0x7C#8, 0x36#8, 0x80#8, 0x7C#8,
      0x00#8, 0xFF#8, 0x5D#8, 0x48#8, 0x8E#8, 0x5D#8, 0x3B#8]] := by decide

/-- V1 and V18a in `AS_BUILT` mode: 03 C4 3B 3C. -/
theorem test_line_ex_as_built_mismatches :
    answer (exec (.line ex) (demo .asBuilt 0x00#8 .run)) = some [.mismatch 0xC4#8 0x3B#8 0x3C#8] := by decide

/-- P1: the end state. -/
theorem test_line_ex_elements : elements (exec (.line ex) plain) = some
    { phase := .run, abortCause := .none, diagValid := true,
      diagSeq := [0x41#8, 0x10#8, 0xFF#8, 0x80#8, 0x00#8, 0xD6#8, 0xEA#8, 0xF7#8, 0x7C#8, 0x36#8, 0x80#8,
        0x7C#8, 0x00#8, 0xFF#8, 0x5D#8, 0x48#8, 0x8E#8, 0x5D#8],
      diagSum := 0xC4#8, diagCs := 0x3B#8, diagCs2 := 0x3B#8, badPos := 0#8, emitCount := 1#32,
      skipCount := 0#32 } := by decide

/-- P4: `BAD_HEX` at position 12, the lowest of two, before any mismatch. -/
theorem test_line_bad_aborts : elements (exec (.line bad) (demo .asBuilt 0x00#8 .run)) = some
    { Elements.reset plain.cfg with phase := .abort, abortCause := .badHex, badPos := 0x0C#8 } := by decide

/-- P2: lines after the end are ignored. -/
theorem test_line_after_end_is_ignored :
    answer (exec (.line ex) (demo .crossB 0x00#8 .finished)) = some [.ignored] := by decide

/-- V21a. -/
theorem test_finish_status : (elements (exec .finish plain)).map statusByte = some 0x02#8 := by decide

/-- V21h: SKIP_COUNT = 0x102 reads 02 01 00 00. -/
theorem test_rdreg_skip_count : answer (exec (.rdreg 0x06#8)
    { plain with regs := { plain.regs with skipCount := 0x102#32 } }) =
    some [.value [0x02#8, 0x01#8, 0x00#8, 0x00#8]] := by decide

/-- V21f. -/
theorem test_rdreg_cfg_reclen : answer (exec (.rdreg 0x08#8) plain) = some [.value [0x2B#8]] := by decide

/-- V8. -/
theorem test_rsum_leaves_out_the_last : answer (exec (.rsum [0x41#8, 0x10#8, 0xAA#8]) plain) =
    some [.value [0x51#8]] := by decide

/-- V15b, the sum wraps. -/
theorem test_rsum_wraps : answer (exec (.rsum [0xFF#8, 0x01#8, 0x33#8]) plain) = some [.value [0x00#8]] := by
  decide

/-- V22b, for the `CSA_ZERO` of the instance. -/
theorem test_csa_zero : answer (exec (.csa 0#16) plain) = some [.value [0x5A#8]] := by decide

/-- V16b. -/
theorem test_csa_81 : answer (exec (.csa 0x81#16) plain) = some [.value [0x7F#8]] := by decide

/-- V22c. -/
theorem test_csb_c4 : answer (exec (.csb 0xC4#8) plain) = some [.value [0x3B#8]] := by decide

/-- V21e. -/
theorem test_reset_restores : elements (exec .reset (demo .asBuilt 0x00#8 .abort)) =
    some (Elements.reset plain.cfg) := by decide

/-- V14a and V12a: a bad start marker and lower-case digits change nothing. -/
theorem test_dropped_fields_and_case : toBytes plain.cfg xpre = toBytes plain.cfg ex ∧
    toBytes plain.cfg exl = toBytes plain.cfg ex := by decide

/-- V18b: s = 0xFF gives cs = 0x00. -/
theorem test_engine_wraps_to_zero : (engine plain.cfg (0xAE#8 :: List.replicate 15 0x00#8)).cs = 0x00#8 := by
  decide

/-- 42_array_emitter.md R157: the text of the source's record begins with the header tokens and ends with the
checksum in lower case. -/
theorem test_host_line_text : (hostLineText plain.cfg ex 0x3B#8).take 17 =
    [0x7B#8, 0x30#8, 0x78#8, 0x30#8, 0x38#8, 0x2C#8, 0x30#8, 0x78#8, 0x34#8, 0x31#8, 0x2C#8, 0x30#8, 0x78#8,
      0x31#8, 0x30#8, 0x2C#8, 0x30#8] ∧
    (hostLineText plain.cfg ex 0x3B#8).drop 95 =
      [0x2C#8, 0x30#8, 0x78#8, 0x33#8, 0x62#8, 0x7D#8, 0x2C#8, 0x0A#8] := by decide

/-- V23f: a line of which 33 characters are missing is stuck. -/
theorem test_incomplete_line_is_stuck :
    step { plain with port := [0x02#8, 0x2B#8, 0x00#8] ++ ex.take 10 } = .fault .incompleteCommand := by rfl

/-! ## Witnesses: for each obligation with hypotheses, a case that meets them all -/

/-- A line of which 33 characters are missing (V23f), with a hardware reset behind it. -/
def cutShort : State :=
  { plain with port := [0x02#8, 0x2B#8, 0x00#8] ++ ex.take 10, pendingResets := [[0x03#8]] }

theorem cutShort_needs_more : ∀ n, commandLength cutShort.port = some n → cutShort.port.length < n := by
  intro n h
  have : commandLength cutShort.port = some 46 := by decide
  rw [this, Option.some.injEq] at h
  subst h
  decide

theorem test_witness_DecodeOfEncodeGivesTheCommand : (Instr.line ex).wf = true := by decide

theorem test_witness_DecodedCommandWasEncoded :
    decode [0x04#8, 0x42#8, 0x09#8] = .command (.rdreg 0x42#8) [0x09#8] := by decide

theorem test_witness_CommandLengthGovernsDecoding :
    (0x08 ≤ (0x08#8).toNat) ∧ (0x08 ≤ (0xFF#8).toNat) ∧
    decode [0x02#8, 0x01#8, 0x00#8, 0x3A#8] = .command (.line [0x3A#8]) [] ∧
    commandLength [0x02#8, 0x01#8, 0x00#8, 0x3A#8] = some 4 ∧ decode [0x06#8, 0x00#8] = .incomplete ∧
    decode [0x08#8] = .illegal 0x08#8 [] := by decide

theorem test_witness_LaterBytesDoNotChangeADecodedCommand :
    decode [0x06#8, 0x00#8, 0x01#8] = .command (.csa 256#16) [] ∧
    decode [0x00#8, 0x05#8] = .illegal 0x00#8 [0x05#8] := by decide

theorem test_witness_StepRunsTheDecodedCommand :
    decode { plain with port := [0x07#8, 0xC4#8] }.port = .command (.csb 0xC4#8) [] := by decide

theorem test_witness_IllegalOpcodeTakesOneByteAndAnswers :
    ∀ op : Byte, op = 0x00#8 ∨ op = 0x08#8 ∨ op = 0xFF#8 →
      ∃ s : State, s.port = op :: [0x01#8] ∧ (op = 0x00#8 ∨ 0x08 ≤ op.toNat) := by
  intro op h
  exact ⟨{ plain with port := op :: [0x01#8] }, rfl, by rcases h with rfl | rfl | rfl <;> decide⟩

theorem test_witness_IncompleteCommandHasNoStep : ∃ (s : State) (op : Byte) (rest more : List Byte) (i : Instr),
    s.port = op :: rest ∧ (∀ n, commandLength s.port = some n → s.port.length < n) ∧ s.pendingResets = [] ∧
      decode (s.port ++ more) = .command i [] :=
  ⟨{ cutShort with pendingResets := [] }, 0x02#8, [0x2B#8, 0x00#8] ++ ex.take 10, ex.drop 10, .line ex,
    rfl, cutShort_needs_more, rfl, by decide⟩

theorem test_witness_HardwareResetDiscardsAnIncompleteCommand :
    (∀ n, commandLength cutShort.port = some n → cutShort.port.length < n) ∧
      cutShort.pendingResets = [0x03#8] :: [] := ⟨cutShort_needs_more, rfl⟩

theorem test_witness_EveryCommandAnswersExactlyOnce : plain.cfg.legal = true := by decide

/-- The legal ends of `RECORD_LEN` (R5): 11 and 255. -/
theorem test_legal_record_lengths :
    ({ plain.cfg with recordLen := 11 } : Config).legal = true ∧
    ({ plain.cfg with recordLen := 255 } : Config).legal = true ∧
    ({ plain.cfg with recordLen := 44 } : Config).legal = false := by decide

theorem test_witness_ResponseCodesComeFromTheirCommands :
    decode { plain with port := [0x08#8] }.port = .illegal 0x08#8 [] ∧
    (∃ t, exec .reset plain = .next t ∧ t.sent = plain.sent ++ [.ok]) ∧
    (∃ t, exec (.line []) plain = .next t ∧ t.sent = plain.sent ++ [.skipped]) ∧
    (∃ t, exec (.line bad) plain = .next t ∧ t.sent = plain.sent ++ [.badHex 0x0C#8]) ∧
    (∃ t, exec (.rdreg 0x07#8) plain = .next t ∧ t.sent = plain.sent ++ [.badOperand 0x04#8]) ∧
    (∃ t, exec (.rdreg 0x51#8) plain = .next t ∧ t.sent = plain.sent ++ [.value [0x00#8]]) ∧
    (∃ t, exec (.csa 257#16) plain = .next t ∧ t.sent = plain.sent ++ [.badOperand 0x06#8]) :=
  ⟨by decide, next_of_answer (by decide), next_of_answer (by decide), next_of_answer (by decide),
    next_of_answer (by decide), next_of_answer (by decide), next_of_answer (by decide)⟩

theorem test_witness_BadOperandChangesNothing :
    (∀ idx : Byte, idx = 0x07#8 ∨ idx = 0x0E#8 ∨ idx = 0x3F#8 ∨ idx = 0x52#8 ∨ idx = 0xFF#8 →
      (idx = 0x07#8 ∨ (0x0E ≤ idx.toNat ∧ idx.toNat ≤ 0x3F) ∨ 0x40 + plain.cfg.nSum ≤ idx.toNat)) ∧
    256 < (0x01#8).toNat + 256 * (0x01#8).toNat ∧ 256 < (0x00#8).toNat + 256 * (0xFF#8).toNat ∧
    ∃ t, exec (.line bad) plain = .next t := by
  refine ⟨?_, by decide, by decide, ?_⟩
  · rintro idx (rfl | rfl | rfl | rfl | rfl) <;> decide
  · obtain ⟨t, h, -⟩ := next_of_answer (r := exec (.line bad) plain) (rs := [.badHex 0x0C#8]) (by decide)
    exact ⟨t, h⟩

theorem test_witness_HexDigitsByCodeValue :
    ∀ ch ∈ [0x30#8, 0x39#8, 0x41#8, 0x46#8, 0x61#8, 0x66#8], isHex ch = true ∧
      isHex 0x2F#8 = false ∧ isHex 0x3A#8 = false ∧ isHex 0x40#8 = false ∧ isHex 0x47#8 = false ∧
      isHex 0x60#8 = false ∧ isHex 0x67#8 = false := by decide

theorem ex_length : ex.length = plain.cfg.recordLen := by decide

/-- Every payload character of EX is a hex digit, the boundary positions 9 and 40 among them. -/
theorem ex_all_hex : ∀ j, 9 ≤ j → j ≤ plain.cfg.recordLen - 3 → isHex (ex.getD j 0#8) = true := by
  intro j h1 h2
  have h3 : j < 41 := Nat.lt_succ_of_le h2
  revert h1
  have : ∀ j, j < 41 → 9 ≤ j → isHex (ex.getD j 0#8) = true := by decide
  exact this j h3

theorem test_witness_HexcheckFindsTheFirstBadCharacter :
    plain.cfg.legal = true ∧ bad.length = plain.cfg.recordLen ∧ hexcheck plain.cfg bad = some 12 ∧
    hexcheck plain.cfg (ex.set 9 0x47#8) = some 9 ∧ hexcheck plain.cfg (ex.set 40 0x20#8) = some 40 ∧
    hexcheck plain.cfg ex = none := by decide

theorem test_witness_DataBytesComeFromCharacterPairs :
    plain.cfg.legal = true ∧ ex.length = plain.cfg.recordLen ∧ ex.length = exl.length ∧
    (∀ k, hexval (ex.getD k 0#8) = hexval (exl.getD k 0#8)) ∧
    isHex 0x44#8 = true ∧ isHex 0x36#8 = true := by
  refine ⟨by decide, by decide, by decide, ?_, by decide, by decide⟩
  intro k
  rcases Nat.lt_or_ge k 43 with h | h
  · exact (by decide : ∀ k, k < 43 → hexval (ex.getD k 0#8) = hexval (exl.getD k 0#8)) k h
  · rw [List.getD_eq_default _ _ h, List.getD_eq_default _ _ h]

theorem test_witness_DroppedFieldsAreNeverInspected :
    plain.cfg.legal = true ∧ ex.length = xpre.length ∧
    ∀ k, 9 ≤ k → k ≤ plain.cfg.recordLen - 3 → ex.getD k 0#8 = xpre.getD k 0#8 := by
  refine ⟨by decide, by decide, fun k h1 h2 => ?_⟩
  have h3 : k < 41 := Nat.lt_succ_of_le h2
  exact (by decide : ∀ k, k < 41 → 9 ≤ k → ex.getD k 0#8 = xpre.getD k 0#8) k h3 h1

theorem test_witness_DerivationAFlipsAboveTheLowestSetBit :
    (∀ v p, (v, p) = (1, 0) ∨ (v, p) = (0x80, 7) ∨ (v, p) = (255, 0) →
      1 ≤ v ∧ v ≤ 255 ∧ v.testBit p = true ∧ ∀ q, q < p → v.testBit q = false) := by
  rintro v p (h | h | h) <;> (rw [Prod.mk.injEq] at h; obtain ⟨rfl, rfl⟩ := h; decide)

theorem test_witness_DerivationAAtTheEndsOfItsDomain : 256 < (257#16).toNat := by decide

theorem test_witness_DerivationAIsNegation : (1 ≤ 1 ∧ 1 ≤ 256) ∧ (1 ≤ 256 ∧ 256 ≤ 256) := by decide

theorem test_witness_CrossBDetectsNoMismatch :
    plain.cfg.legal = true ∧ plain.cfg.mode = .crossB ∧ plain.regs.phase = .run ∧
    ∃ t, exec (.line bad) plain = .next t ∧ t.regs.phase = .abort := by
  refine ⟨by decide, rfl, rfl, ?_⟩
  obtain ⟨t, h, e⟩ := next_of_elements (r := exec (.line bad) plain)
    (e := { plain.regs with phase := .abort, abortCause := .badHex, badPos := 12#8 }) (by decide)
  exact ⟨t, h, by rw [e]⟩

theorem test_witness_AsBuiltAgreesOnlyOnZero : ∃ (s : State) (d : List Byte),
    s.cfg.mode = .asBuilt ∧ s.regs.phase = .run ∧ decodeRecord s.cfg ex = .data d ∧
      (engine s.cfg d).sum ≠ 0#8 :=
  ⟨demo .asBuilt 0xFF#8 .run, toBytes plain.cfg ex, rfl, rfl, by decide, by decide⟩

theorem test_witness_ResetCommandRestoresEveryElement :
    (demo .crossB 0#8 .abort).regs.phase = .abort ∧
    (∃ t, exec .reset (demo .crossB 0#8 .abort) = .next t ∧ t.regs.phase ≠ .abort) ∧
    ∃ s t : State, s.port = [] ∧ s.pendingResets = [0x01#8] :: [] ∧ exec .reset s = .next t :=
  ⟨rfl, ⟨_, rfl, by decide⟩, { plain with pendingResets := [[0x01#8]] }, _, rfl, rfl, rfl⟩

theorem test_witness_FinishEndsTheInput :
    plain.regs.phase = .run ∧ (demo .crossB 0#8 .finished).regs.phase = .finished ∧
    (demo .crossB 0#8 .abort).regs.phase = .abort := ⟨rfl, rfl, rfl⟩

/-- The reset elements of the default parameters meet the invariant, in every mode and for every
`CSA_ZERO`. -/
theorem demo_run_inv (mode : ValidationMode) (z : Byte) : (demo mode z .run).Inv where
  legal := by simp [demo, Config.legal]
  consistent := by constructor <;> simp [demo, Elements.reset]
  markSent := Nat.le_refl _
  counted := rfl

theorem test_witness_RdregReadsEveryRegister :
    plain.cfg.legal = true ∧ 0 < plain.cfg.nSum ∧ 17 < plain.cfg.nSum ∧ plain.Inv ∧
    plain.regs.diagValid = false ∧
    (0x40 ≤ (0x40#8).toNat ∧ (0x40#8).toNat < 0x40 + plain.cfg.nSum) ∧
    (0x40 ≤ (0x51#8).toNat ∧ (0x51#8).toNat < 0x40 + plain.cfg.nSum) ∧
    0x40 + plain.cfg.nSum ≤ (0x52#8).toNat :=
  ⟨by decide, by decide, by decide, demo_run_inv _ _, rfl, by decide, by decide, by decide⟩

theorem test_witness_StatusFieldsAreLaidOut : ∃ e : Elements,
    e.phase = .abort ∧ e.abortCause = .mismatch ∧ e.diagValid = true :=
  ⟨{ plain.regs with phase := .abort, abortCause := .mismatch, diagValid := true }, rfl, rfl, rfl⟩

theorem test_witness_RsumAnswersTheSumOfAllButTheLast :
    [0x41#8, 0x10#8, 0xAA#8].length = (0x03#8).toNat + 256 * (0x00#8).toNat ∧
    (List.replicate 256 0x01#8).length = (0x00#8).toNat + 256 * (0x01#8).toNat := by
  constructor
  · decide
  · rw [List.length_replicate]; decide

theorem test_witness_LineOutsideRunIsIgnored :
    (demo .crossB 0#8 .abort).regs.phase ≠ .run ∧ (demo .crossB 0#8 .finished).regs.phase ≠ .run := by decide

theorem test_witness_LineOfAnotherLengthIsSkipped :
    plain.regs.phase = .run ∧ ([] : List Byte).length ≠ plain.cfg.recordLen ∧
    (ex.take 42).length ≠ plain.cfg.recordLen ∧ (ex ++ [0x30#8]).length ≠ plain.cfg.recordLen := by decide

theorem test_witness_LineWithABadCharacterAborts :
    plain.cfg.legal = true ∧ plain.regs.phase = .run ∧
    (∀ k, k = 9 ∨ k = 12 ∨ k = 40 → (ex.set k 0x47#8).length = plain.cfg.recordLen ∧ 9 ≤ k ∧
      k ≤ plain.cfg.recordLen - 3 ∧ isHex ((ex.set k 0x47#8).getD k 0#8) = false ∧
      ∀ j, j < k → 9 ≤ j → isHex ((ex.set k 0x47#8).getD j 0#8) = true) := by
  refine ⟨by decide, rfl, ?_⟩
  rintro k (rfl | rfl | rfl) <;> decide

theorem test_witness_CrossBLineIsEmitted :
    plain.cfg.legal = true ∧ plain.cfg.mode = .crossB ∧ plain.regs.phase = .run ∧
    ex.length = plain.cfg.recordLen ∧
    ∀ j, 9 ≤ j → j ≤ plain.cfg.recordLen - 3 → isHex (ex.getD j 0#8) = true :=
  ⟨by decide, rfl, rfl, ex_length, ex_all_hex⟩

/-- EX has a sum that is not 0 and S0 one that is 0 (V18c), so both clauses are met. -/
theorem test_witness_AsBuiltLineAbortsUnlessTheSumIsZero :
    ∀ z : Byte, z = 0x00#8 ∨ z = 0xFF#8 →
      (demo .asBuilt z .run).cfg.legal = true ∧ (demo .asBuilt z .run).cfg.mode = .asBuilt ∧
      (demo .asBuilt z .run).regs.phase = .run ∧
      (ex.length = 43 ∧ s0.length = 43 ∧ (demo .asBuilt z .run).cfg.recordLen = 43) ∧
      (∀ j, j < 41 → 9 ≤ j → isHex (ex.getD j 0#8) = true ∧ isHex (s0.getD j 0#8) = true) ∧
      (engine (demo .asBuilt z .run).cfg (toBytes (demo .asBuilt z .run).cfg ex)).sum = 0xC4#8 ∧
      (engine (demo .asBuilt z .run).cfg (toBytes (demo .asBuilt z .run).cfg s0)).sum = 0x00#8 := by
  rintro z (rfl | rfl) <;> decide

theorem test_witness_OnlyLineEmitsOrCounts :
    (∃ t, exec .reset plain = .next t) ∧ (∃ t, exec (.csb 0xC4#8) plain = .next t) ∧
    (∀ c, Instr.reset ≠ .line c) ∧ (∀ c, Instr.csb 0xC4#8 ≠ .line c) :=
  ⟨⟨_, rfl⟩, ⟨_, rfl⟩, fun _ => Instr.noConfusion, fun _ => Instr.noConfusion⟩

theorem test_witness_SideEffectsAndIdempotency :
    (∃ t u, exec (.csb 0xC4#8) plain = .next t ∧ t.sent = plain.sent ++ [.value [0x3B#8]] ∧
      exec (.csb 0xC4#8) t = .next u) ∧
    (∃ t u, exec .finish plain = .next t ∧ exec .finish t = .next u) ∧
    (∃ t u, exec .reset plain = .next t ∧ exec .reset t = .next u) ∧
    ∃ out t, exec (.line ex) plain = .next t ∧ t.sent = plain.sent ++ [.emitted out] :=
  ⟨⟨_, _, rfl, rfl, rfl⟩, ⟨_, _, rfl, rfl⟩, ⟨_, _, rfl, rfl⟩, _, next_of_answer test_line_ex_is_emitted⟩

/-- EX on the port, in the default mode. -/
def exOnPort : State := { plain with port := [0x02#8, 0x2B#8, 0x00#8] ++ ex }

/-- BAD on the port, in the default mode. -/
def badOnPort : State := { plain with port := [0x02#8, 0x2B#8, 0x00#8] ++ bad }

theorem exOnPort_step : ∃ t, step exOnPort = .next t ∧ t.sentRecords ≠ exOnPort.sentRecords := by
  have h : (answer (step exOnPort)).map (List.filterMap Response.record) ≠ some exOnPort.sentRecords := by decide
  have n : (answer (step exOnPort)).isSome = true := by decide
  obtain ⟨rs, hr⟩ := Option.isSome_iff_exists.1 n
  obtain ⟨t, ht, hs⟩ := next_of_answer hr
  exact ⟨t, ht, fun e => h (by rw [hr, ← e, State.sentRecords, ← hs]; rfl)⟩

/-- A line that aborts: what every statement about a step that moves `PHASE`, `ABORT_CAUSE` or `BAD_POS` takes
for granted (PhaseMovesOnlyAsListed, AbortCauseIsWrittenOnlyByTheAbort, BadPosIsWrittenOnlyByBadHex). -/
theorem test_witness_PhaseMovesOnlyAsListed : badOnPort.cfg.legal = true ∧ ∃ t, step badOnPort = .next t ∧
    t.regs = { plain.regs with phase := .abort, abortCause := .badHex, badPos := 0x0C#8 } :=
  ⟨by decide, next_of_elements (by decide)⟩

theorem test_witness_AbortCauseIsWrittenOnlyByTheAbort : ∃ t, step badOnPort = .next t ∧
    t.regs = { plain.regs with phase := .abort, abortCause := .badHex, badPos := 0x0C#8 } :=
  test_witness_PhaseMovesOnlyAsListed.2

theorem test_witness_BadPosIsWrittenOnlyByBadHex : badOnPort.cfg.legal = true ∧ ∃ t, step badOnPort = .next t :=
  ⟨by decide, test_witness_PhaseMovesOnlyAsListed.2.imp fun _ h => h.1⟩

theorem test_witness_OutputOnlyGrowsAndParametersStay : (∃ t, step exOnPort = .next t) ∧
    ∃ t, step cutShort = .next t :=
  ⟨exOnPort_step.imp fun _ h => h.1, _, rfl⟩

theorem test_witness_DiagnosticsHoldTheLastProcessedLine : (∃ t, step exOnPort = .next t) ∧
    decode exOnPort.port = .command (.line ex) [] ∧ exOnPort.regs.phase = .run ∧
    decodeRecord exOnPort.cfg ex = .data (toBytes plain.cfg ex) :=
  ⟨exOnPort_step.imp fun _ h => h.1, by decide, rfl, by decide⟩

theorem test_witness_CountersCountTheirAnswers : (∃ t, step exOnPort = .next t) ∧
    ¬((∃ rest, decode exOnPort.port = .command .reset rest) ∨ decode exOnPort.port = .incomplete) ∧
    (∃ t, step cutShort = .next t) ∧ decode cutShort.port = .incomplete := by
  have h : decode exOnPort.port = .command (.line ex) [] := by decide
  refine ⟨exOnPort_step.imp fun _ h => h.1, ?_, ⟨_, rfl⟩, by decide⟩
  rw [h]
  rintro (⟨rest, hr⟩ | hr) <;> cases hr

theorem test_witness_AbortRefusesLinesAndFinish : ∃ s t u : State, s.regs.phase = .abort ∧
    exec (.csb 0xC4#8) s = .next t ∧
    exec (.csb 0xC4#8) { s with regs := { s.regs with phase := .run } } = .next u :=
  ⟨demo .crossB 0#8 .abort, _, _, rfl, rfl, rfl⟩

theorem test_witness_AbortIsLeftOnlyByReset : ∃ s t : State, s.regs.phase = .abort ∧ step s = .next t ∧
    t.regs.phase = .run :=
  ⟨{ demo .crossB 0#8 .abort with port := [0x01#8] }, _, rfl, rfl, rfl⟩

theorem test_witness_ResetStateHoldsTheListedValues : (∃ t, exec .reset plain = .next t) ∧
    decode cutShort.port = .incomplete ∧ ∃ t, step cutShort = .next t := ⟨⟨_, rfl⟩, by decide, _, rfl⟩

theorem test_witness_RecordsComeOnlyFromAcceptedLines :
    ∃ t, step exOnPort = .next t ∧ t.sentRecords ≠ exOnPort.sentRecords := exOnPort_step

theorem test_witness_CsaZeroIsSeenOnlyWhereTheSpecReadsIt : plain.cfg.mode = .crossB ∧
    Instr.csa 1#16 ≠ .csa 0#16 ∧ Instr.csa 1#16 ≠ .rdreg 0x0D#8 ∧ ∃ t, exec (.csa 1#16) plain = .next t :=
  ⟨rfl, by decide, by decide, (next_of_answer (rs := [.value [0xFF#8]]) (by decide)).imp fun _ h => h.1⟩

theorem exOnPort_inv : exOnPort.Inv where
  legal := by decide
  consistent := (demo_run_inv _ _).consistent
  markSent := by decide
  counted := by decide

theorem test_witness_RecordsSinceResetGrowByEachRecord : exOnPort.Inv ∧ ∃ t, step exOnPort = .next t :=
  ⟨exOnPort_inv, exOnPort_step.imp fun _ h => h.1⟩

/-- A record of an earlier run is none of the run that a reset begins (R249). -/
theorem test_records_of_an_earlier_run_are_left_out :
    State.recordsSinceReset { plain with sent := [.emitted [0x08#8], .ok, .emitted [0x09#8]], sentAtReset := 1 } =
      [[0x09#8]] := by decide

/-- A run that ends by `FINISH`, one that ends by an abort, one that goes on, and one that is stuck. -/
theorem test_witness_RunEndsWithItsResult : exOnPort.regs.phase = .run ∧ badOnPort.regs.phase = .run ∧
    (∃ s t : State, s.regs.phase = .run ∧ step s = .next t ∧ t.runResult ≠ none ∧ t.regs.phase = .finished) ∧
    (∃ t, step badOnPort = .next t ∧
      t.regs = { plain.regs with phase := .abort, abortCause := .badHex, badPos := 0x0C#8 }) ∧
    (∃ t, step exOnPort = .next t) ∧
    decode { cutShort with pendingResets := [] }.port = .incomplete :=
  ⟨rfl, rfl, ⟨{ plain with port := [0x03#8] }, _, rfl, rfl, by decide, rfl⟩,
    test_witness_PhaseMovesOnlyAsListed.2, exOnPort_step.imp fun _ h => h.1, by decide⟩

theorem test_witness_EndedRunStaysEndedUntilReset :
    (∃ s t : State, s.runEnded = true ∧ s.regs.phase = .finished ∧ step s = .next t ∧ t.runEnded = true) ∧
    ∃ s t : State, s.runEnded = true ∧ s.regs.phase = .abort ∧ step s = .next t ∧ t.runEnded = false :=
  ⟨⟨{ demo .crossB 0#8 .finished with port := [0x03#8] }, _, rfl, rfl, rfl, rfl⟩,
    { demo .crossB 0#8 .abort with port := [0x01#8] }, _, rfl, rfl, rfl, rfl⟩

theorem test_witness_StepKeepsTheInvariant : exOnPort.Inv ∧ ∃ t, step exOnPort = .next t :=
  ⟨exOnPort_inv, exOnPort_step.imp fun _ h => h.1⟩

/-- The state V1 leaves in `AS_BUILT` mode: aborted by a mismatch of C4, 3B and 3C. -/
def afterMismatch : State :=
  { demo .asBuilt 0x00#8 .abort with
    regs := { Elements.reset plain.cfg with
      phase := .abort, abortCause := .mismatch, diagValid := true,
      diagSeq := [0x41#8, 0x10#8] ++ toBytes plain.cfg ex,
      diagSum := 0xC4#8, diagCs := 0x3B#8, diagCs2 := 0x3C#8 } }

theorem test_witness_MismatchMeansAsBuilt :
    afterMismatch.Inv ∧ afterMismatch.regs.abortCause = .mismatch := by
  refine ⟨⟨by decide, ?_, by decide, by decide⟩, rfl⟩
  exact {
    seqLength := by decide
    causeIffAbort := by decide
    badPosRange := by decide
    badPosZero := by decide
    diagUnset := by decide
    diagSet := fun _ => ⟨by decide, by decide, by decide, by decide⟩
    mismatchDiffers := by decide
    agreesOtherwise := by decide
    emittedValid := by decide }

end Sys2Proof.Tests
end

section
/-! The hex digits of 00_scope.md R16 by code value: the model compares bytes, the obligation speaks of their
code values as numbers. One lemma for `isHex`, one for `hexval` on each of the three ranges. -/

namespace Sys2Proof.Machine

open Sys2Proof

theorem isHex_iff_toNat (ch : Byte) :
    isHex ch = true ↔ (0x30 ≤ ch.toNat ∧ ch.toNat ≤ 0x39) ∨ (0x41 ≤ ch.toNat ∧ ch.toNat ≤ 0x46) ∨
      (0x61 ≤ ch.toNat ∧ ch.toNat ≤ 0x66) := by
  simp [isHex, BitVec.le_def, or_assoc]

theorem hexval_eq_toNat (ch : Byte) :
    hexval ch =
      if 0x30 ≤ ch.toNat ∧ ch.toNat ≤ 0x39 then ch.toNat - 0x30
      else if 0x41 ≤ ch.toNat ∧ ch.toNat ≤ 0x46 then ch.toNat - 0x41 + 10
      else if 0x61 ≤ ch.toNat ∧ ch.toNat ≤ 0x66 then ch.toNat - 0x61 + 10
      else 0 := by
  simp [hexval, BitVec.le_def]

theorem hexval_of_decimal {ch : Byte} (h : 0x30 ≤ ch.toNat ∧ ch.toNat ≤ 0x39) :
    hexval ch = ch.toNat - 0x30 := by
  rw [hexval_eq_toNat, if_pos h]

theorem hexval_of_upper {ch : Byte} (h : 0x41 ≤ ch.toNat ∧ ch.toNat ≤ 0x46) :
    hexval ch = ch.toNat - 0x41 + 10 := by
  rw [hexval_eq_toNat, if_neg (by omega), if_pos h]

theorem hexval_of_lower {ch : Byte} (h : 0x61 ≤ ch.toNat ∧ ch.toNat ≤ 0x66) :
    hexval ch = ch.toNat - 0x61 + 10 := by
  rw [hexval_eq_toNat, if_neg (by omega), if_neg (by omega), if_pos h]

/-- Settles O15: membership by `isHex_iff_toNat`, the value by the lemma of each range. -/
theorem hexDigitsByCodeValue : Obligations.HexDigitsByCodeValue :=
  fun ch => ⟨isHex_iff_toNat ch, hexval_of_decimal, hexval_of_upper, hexval_of_lower⟩

end Sys2Proof.Machine
end

section
/-! `STATUS` field by field (10_state.md R30): the byte is four pieces put side by side, so a read at the place
of one piece gives that piece back. -/

namespace Sys2Proof.Machine

open Sys2Proof

variable (e : Elements)

theorem statusByte_phase : (statusByte e).extractLsb' 0 2 = e.phase.code :=
  BitVec.extractLsb'_append_eq_right

theorem statusByte_diagValid : (statusByte e).getLsbD 2 = e.diagValid := by
  rw [statusByte, BitVec.getLsbD_append, BitVec.getLsbD_append]
  simp

theorem statusByte_bit3 : (statusByte e).getLsbD 3 = false := by
  rw [statusByte, BitVec.getLsbD_append, BitVec.getLsbD_append, BitVec.getLsbD_append]
  simp

theorem statusByte_abortCause : (statusByte e).extractLsb' 4 4 = e.abortCause.code := by
  rw [statusByte, BitVec.extractLsb'_append_eq_of_le (by decide),
    BitVec.extractLsb'_append_eq_of_le (by decide)]
  exact BitVec.extractLsb'_append_eq_left

theorem statusByte_reset (cfg : Config) : statusByte (Elements.reset cfg) = 0x00#8 := by
  rw [statusByte, Elements.reset_phase, Elements.reset_abortCause, Elements.reset_diagValid]
  rfl

/-- `STATUS` after a mismatch abort: the example of R30. -/
theorem statusByte_of_mismatch (hp : e.phase = .abort) (hc : e.abortCause = .mismatch)
    (hv : e.diagValid = true) : statusByte e = 0x35#8 := by
  rw [statusByte, hp, hc, hv]
  rfl

/-- Settles O30: each field by its own lemma, then the reset value and the example. -/
theorem statusFieldsAreLaidOut : Obligations.StatusFieldsAreLaidOut :=
  ⟨fun e => ⟨statusByte_phase e, statusByte_diagValid e, statusByte_bit3 e, statusByte_abortCause e⟩,
    statusByte_reset _, statusByte_of_mismatch⟩

end Sys2Proof.Machine
end

section
/-! Both reset events establish the reset value of every element, from every state (10_state.md R36,
70_reset_and_hazards.md R240): the command by its equation, the hardware reset as the one step that is left
when no command and no illegal opcode stands on the port. -/

namespace Sys2Proof.Machine

open Sys2Proof

theorem regs_of_exec_reset {s t : State} (h : exec .reset s = .next t) : t.regs = Elements.reset s.cfg := by
  rw [execReset_eq, Host.Outcome.next.injEq] at h
  rw [← h]

theorem regs_of_step_incomplete {s t : State} (hd : decode s.port = .incomplete) (h : step s = .next t) :
    t.regs = Elements.reset s.cfg := by
  rcases step_cases h with ⟨i, rest, hcommand, -⟩ | ⟨op, rest, hillegal, -⟩ | ⟨bytes, more, -, -, rfl⟩
  · simp [hd] at hcommand
  · simp [hd] at hillegal
  · rfl

/-- Settles O48: `Elements.reset` lists R36, and each reset event leads to it. -/
theorem resetStateHoldsTheListedValues : Obligations.ResetStateHoldsTheListedValues := by
  refine ⟨rfl, fun s t h => ?_⟩
  rcases h with hcommand | ⟨hd, hstep⟩
  · exact regs_of_exec_reset hcommand
  · exact regs_of_step_incomplete hd hstep

end Sys2Proof.Machine
end

section
/-! Which commands can be repeated without a trace (20_memory.md R57). A query's answer depends on the parameters
and the elements alone, and no query changes them; `FINISH` and `RESET` lead to elements that they then keep;
an accepted line changes nothing that decides whether it is accepted, so it is accepted again. -/

namespace Sys2Proof.Machine

open Sys2Proof

/-- A query gives one answer, and does nothing else, in all states with the same parameters and elements. -/
theorem exec_query_answer {i : Instr} (s : State)
    (h : (∃ idx, i = .rdreg idx) ∨ (∃ b, i = .rsum b) ∨ (∃ v, i = .csa v) ∨ (∃ v, i = .csb v)) :
    ∃ r, ∀ s' : State, s'.cfg = s.cfg → s'.regs = s.regs → exec i s' = .next (s'.respond r) := by
  rcases h with ⟨idx, rfl⟩ | ⟨b, rfl⟩ | ⟨v, rfl⟩ | ⟨v, rfl⟩
  · refine ⟨(registerAt s.cfg idx).elim (.badOperand 0x04#8) fun q => .value (q.snapshot s.cfg s.regs),
      fun s' hc hr => ?_⟩
    rw [← hc, ← hr]
    exact execRdreg_eq idx s'
  · exact ⟨_, fun s' _ _ => execRsum_eq b s'⟩
  · refine ⟨if v.toNat ≤ 256 then .value [derivationA s.cfg v.toNat] else .badOperand 0x06#8,
      fun s' hc _ => ?_⟩
    rw [← hc]
    exact execCsa_eq v s'
  · exact ⟨_, fun s' _ _ => execCsb_eq v s'⟩

/-- Two runs of a query: the elements stay, and the answer comes twice. -/
theorem exec_query_twice {i : Instr} {s t u : State} {r : Response}
    (h : (∃ idx, i = .rdreg idx) ∨ (∃ b, i = .rsum b) ∨ (∃ v, i = .csa v) ∨ (∃ v, i = .csb v))
    (ht : exec i s = .next t) (hr : t.sent = s.sent ++ [r]) (hu : exec i t = .next u) :
    t.regs = s.regs ∧ u.regs = s.regs ∧ u.sent = t.sent ++ [r] := by
  obtain ⟨q, hq⟩ := exec_query_answer s h
  obtain rfl : s.respond q = t := by simpa [hq s rfl rfl] using ht
  obtain rfl : (s.respond q).respond q = u := by simpa [hq (s.respond q) rfl rfl] using hu
  obtain rfl : q = r := by simpa using hr
  exact ⟨rfl, rfl, rfl⟩

theorem regs_of_exec_finish {s t : State} (h : exec .finish s = .next t) :
    t.regs = { s.regs with phase := if s.regs.phase = .run then .finished else s.regs.phase } := by
  rw [execFinish_eq, Host.Outcome.next.injEq] at h
  rw [← h]

/-- `FINISH` keeps the elements where the phase is no longer `RUN`. -/
theorem regs_of_exec_finish_of_ne_run {s t : State} (hp : s.regs.phase ≠ .run) (h : exec .finish s = .next t) :
    t.regs = s.regs := by
  rw [regs_of_exec_finish h, if_neg hp]

theorem phase_of_exec_finish_ne_run {s t : State} (h : exec .finish s = .next t) : t.regs.phase ≠ .run := by
  rw [regs_of_exec_finish h]
  by_cases hp : s.regs.phase = .run <;> simp [hp]

theorem cfg_of_exec_reset {s t : State} (h : exec .reset s = .next t) : t.cfg = s.cfg := by
  rw [execReset_eq, Host.Outcome.next.injEq] at h
  rw [← h]

/-- What makes `LINE c` an accepted line: the phase, the gate, the hex check and the agreement (R151). None of it
reads a counter, a diagnostic register or a stream. -/
def LineAccepted (s : State) (c : List Byte) : Prop :=
  s.regs.phase = .run ∧ decodeRecord s.cfg c = .data (toBytes s.cfg c) ∧
    (engine s.cfg (toBytes s.cfg c)).agree = true

/-- The state behind an accepted line. -/
def afterAcceptedLine (s : State) (c : List Byte) : State :=
  let e := engine s.cfg (toBytes s.cfg c)
  (s.recordDiag e).countEmit.respond (.emitted (emit s.cfg (toBytes s.cfg c) e.cs))

theorem exec_line_of_accepted {s : State} {c : List Byte} (h : LineAccepted s c) :
    exec (.line c) s = .next (afterAcceptedLine s c) := by
  obtain ⟨hp, hd, ha⟩ := h
  simp only [exec, execLine, hp, processLine, hd, finishLine, ha, if_true, afterAcceptedLine]

/-- Only an accepted line is answered `EMITTED`. -/
theorem lineAccepted_of_emitted {s t : State} {c out : List Byte} (h : exec (.line c) s = .next t)
    (hs : t.sent = s.sent ++ [.emitted out]) : LineAccepted s c := by
  rcases execLine_cases c s with ⟨-, hx⟩ | ⟨-, -, -, hx⟩ | ⟨k, -, -, -, -, hx⟩ | ⟨e, -, -, -, -, -, -, hx⟩ |
    ⟨e, rfl, hp, hd, -, -, ha, -⟩
  case inr.inr.inr.inr => exact ⟨hp, hd, ha⟩
  all_goals
    rw [hx, Host.Outcome.next.injEq] at h
    simp [← h] at hs

/-- An accepted line is accepted again. -/
theorem LineAccepted.after {s : State} {c : List Byte} (h : LineAccepted s c) :
    LineAccepted (afterAcceptedLine s c) c := h

/-- Two runs of a line that is emitted: it is counted and emitted both times. -/
theorem exec_line_emitted_twice {s t : State} {c out : List Byte} (h : exec (.line c) s = .next t)
    (hs : t.sent = s.sent ++ [.emitted out]) :
    t.regs.emitCount = s.regs.emitCount + 1#32 ∧
      ∃ u, exec (.line c) t = .next u ∧ u.sent = t.sent ++ [.emitted out] ∧
        u.regs.emitCount = t.regs.emitCount + 1#32 := by
  have accepted : LineAccepted s c := lineAccepted_of_emitted h hs
  obtain rfl : afterAcceptedLine s c = t := by simpa [exec_line_of_accepted accepted] using h
  obtain rfl : emit s.cfg (toBytes s.cfg c) (engine s.cfg (toBytes s.cfg c)).cs = out := by
    simpa [afterAcceptedLine] using hs
  exact ⟨rfl, _, exec_line_of_accepted accepted.after, rfl, rfl⟩

/-- Settles O40: each clause is two runs of one command. -/
theorem sideEffectsAndIdempotency : Obligations.SideEffectsAndIdempotency := by
  refine ⟨fun i s t u r => exec_query_twice, fun s t u ht hu => ⟨?_, ?_⟩, fun s t u ht hu => ?_,
    fun c out s t => exec_line_emitted_twice⟩
  · rw [regs_of_exec_finish ht]
  · exact regs_of_exec_finish_of_ne_run (phase_of_exec_finish_ne_run ht) hu
  · rw [regs_of_exec_reset hu, regs_of_exec_reset ht, cfg_of_exec_reset ht]

end Sys2Proof.Machine
end

section
/-! Framing (30_encoding.md R82, R86): the length read from a command's first bytes decides whether a stream holds
a complete command, and where that command ends. Said once for all streams, along the opcode map. -/

namespace Sys2Proof

variable (lo hi op : Byte) (rest body : List Byte)

@[simp] theorem commandLength_nil : commandLength [] = none := rfl
@[simp] theorem commandLength_reset : commandLength (0x01#8 :: rest) = some 1 := rfl
@[simp] theorem commandLength_finish : commandLength (0x03#8 :: rest) = some 1 := rfl
@[simp] theorem commandLength_rdreg : commandLength (0x04#8 :: rest) = some 2 := rfl
@[simp] theorem commandLength_csa : commandLength (0x06#8 :: rest) = some 3 := rfl
@[simp] theorem commandLength_csb : commandLength (0x07#8 :: rest) = some 2 := rfl

theorem commandLength_illegal (h : op.toNat = 0 ∨ 8 ≤ op.toNat) : commandLength (op :: rest) = some 1 := by
  simp only [commandLength]
  split
  case h_6 => rfl
  all_goals omega

variable {op}

theorem commandLength_counted (h : op = 0x02#8 ∨ op = 0x05#8) :
    commandLength (op :: lo :: hi :: body) = some (3 + le16 lo hi) := by
  rcases h with rfl | rfl <;> rfl

/-- Without both bytes of the length field the length is not known. -/
theorem commandLength_counted_short (h : op = 0x02#8 ∨ op = 0x05#8) (hr : rest.length < 2) :
    commandLength (op :: rest) = none := by
  match rest, hr with
  | [], _ => rcases h with rfl | rfl <;> rfl
  | [_], _ => rcases h with rfl | rfl <;> rfl

/-- How the length of R86 and the decoder fit together on a stream. -/
inductive Framing (bs : List Byte) : Prop
  /-- fewer bytes than the length, or too few to know it (R82) -/
  | incomplete (hd : decode bs = .incomplete) (hl : ∀ n, commandLength bs = some n → bs.length < n)
  /-- a command of n bytes, all there -/
  | command (i : Instr) (n : Nat) (hd : decode bs = .command i (bs.drop n)) (hl : commandLength bs = some n)
      (hn : n ≤ bs.length)
  /-- an illegal opcode (R78) -/
  | illegal (op : Byte) (rest : List Byte) (hb : bs = op :: rest) (hd : decode bs = .illegal op rest)
      (hl : commandLength bs = some 1)

variable {rest}

theorem framing_of_byteOperand {mk : Byte → Instr} (hd : decode (op :: rest) = decodeByteOperand mk rest)
    (hl : commandLength (op :: rest) = some 2) : Framing (op :: rest) := by
  cases rest with
  | nil => exact .incomplete hd (by simp [hl])
  | cons v rest => exact .command (mk v) 2 hd hl (by simp)

theorem framing_of_halfOperand {mk : Half → Instr} (hd : decode (op :: rest) = decodeHalfOperand mk rest)
    (hl : commandLength (op :: rest) = some 3) : Framing (op :: rest) :=
  match rest, hd, hl with
  | [], hd, hl => .incomplete hd (by simp [hl])
  | [_], hd, hl => .incomplete hd (by simp [hl])
  | _ :: _ :: _, hd, hl => .command _ 3 hd hl (by simp)

theorem framing_of_counted {mk : List Byte → Instr} (hop : op = 0x02#8 ∨ op = 0x05#8)
    (hd : decode (op :: rest) = decodeCounted mk rest) : Framing (op :: rest) := by
  match rest with
  | [] => exact .incomplete hd (by simp [commandLength_counted_short _ hop])
  | [_] => exact .incomplete hd (by simp [commandLength_counted_short _ hop])
  | lo :: hi :: body =>
    have hl := commandLength_counted lo hi body hop
    by_cases hn : le16 lo hi ≤ body.length
    · refine .command (mk (body.take (le16 lo hi))) _ ?_ hl ?_
      · rw [hd, decodeCounted, if_pos hn, Nat.add_comm]
        rfl
      · simp only [List.length_cons]
        omega
    · refine .incomplete (hd.trans (decodeCounted_short _ _ _ _ (by omega))) ?_
      simp only [hl, List.length_cons, Option.some.injEq]
      omega

/-- Every stream is framed: one case for each line of the opcode map. -/
theorem framing (bs : List Byte) : Framing bs := by
  cases bs with
  | nil => exact .incomplete rfl (by simp)
  | cons op rest =>
    rcases opcode_cases op with h | rfl | rfl | rfl | rfl | rfl | rfl | rfl
    · exact .illegal op rest rfl (decode_illegal _ _ h) (commandLength_illegal _ _ h)
    · exact .command .reset 1 rfl rfl (by simp)
    · exact framing_of_counted (.inl rfl) rfl
    · exact .command .finish 1 rfl rfl (by simp)
    · exact framing_of_byteOperand rfl rfl
    · exact framing_of_counted (.inr rfl) rfl
    · exact framing_of_halfOperand rfl rfl
    · exact framing_of_byteOperand rfl rfl

theorem decode_eq_incomplete_iff (bs : List Byte) :
    decode bs = .incomplete ↔ ∀ n, commandLength bs = some n → bs.length < n := by
  cases framing bs with
  | incomplete hd hl => exact ⟨fun _ => hl, fun _ => hd⟩
  | command i n hd hl hn =>
    exact ⟨fun h => by simp [hd] at h, fun h => absurd (h n hl) (Nat.not_lt.mpr hn)⟩
  | illegal op rest hb hd hl =>
    exact ⟨fun h => by simp [hd] at h, fun h => absurd (h 1 hl) (by simp [hb])⟩

theorem rest_of_decode_command {bs rest : List Byte} {i : Instr} {n : Nat} (h : decode bs = .command i rest)
    (hn : commandLength bs = some n) : rest = bs.drop n := by
  cases framing bs with
  | incomplete hd _ => simp [hd] at h
  | command j m hd hl _ =>
    obtain rfl : m = n := by simpa [hl] using hn
    rw [hd, Decoded.command.injEq] at h
    exact h.2.symm
  | illegal _ _ _ hd _ => simp [hd] at h

theorem eq_cons_of_decode_illegal {bs rest : List Byte} {op : Byte} (h : decode bs = .illegal op rest) :
    bs = op :: rest := by
  cases framing bs with
  | incomplete hd _ => simp [hd] at h
  | command _ _ hd _ _ => simp [hd] at h
  | illegal op' rest' hb hd _ =>
    obtain ⟨rfl, rfl⟩ : op' = op ∧ rest' = rest := by simpa [hd] using h
    exact hb

/-- Settles O3: the lengths by the opcode's lemma, the three clauses on `decode` by `framing`. -/
theorem commandLengthGovernsDecoding : Obligations.CommandLengthGovernsDecoding := by
  refine ⟨fun op rest => ⟨?_, ?_, ?_, ?_⟩, decode_eq_incomplete_iff, fun _ _ _ _ => rest_of_decode_command,
    fun _ _ _ => eq_cons_of_decode_illegal⟩
  · rintro (rfl | rfl | rfl | h)
    · rfl
    · rfl
    · rfl
    · exact commandLength_illegal _ _ (.inr h)
  · rintro (rfl | rfl) <;> rfl
  · rintro rfl
    rfl
  · rintro h lo hi body rfl
    exact commandLength_counted lo hi body h

end Sys2Proof
end

section
/-! One response to each command (30_encoding.md R80 to R82): every command answers a next state with one response,
whose payload has the length R81 gives for its code. So a step on a complete command answers, and a step stops
only where no complete command stands on the port. -/

namespace Sys2Proof.Machine

open Sys2Proof

@[simp] theorem littleEndian_length (w v : Nat) : (littleEndian w v).length = w := by
  induction w generalizing v with
  | zero => rfl
  | succ w ih => simp [littleEndian, ih]

/-- The two counters, at 0x05 and 0x06, are the only registers of more than one byte (R32). -/
theorem width_of_registerAt {cfg : Config} {idx : Byte} {q : Register} (h : registerAt cfg idx = some q) :
    q.width = if idx = 0x05#8 ∨ idx = 0x06#8 then 4 else 1 := by
  simp only [BitVec.toNat_eq, BitVec.toNat_ofNat]
  unfold registerAt at h
  split at h
  case h_14 =>
    split at h
    · cases h
      simp_all [Register.width]
    · cases h
  all_goals
    cases h
    simp_all [Register.width]

/-- The payload length of R81: fixed by the code, by the record for `EMITTED` and by the register for `VALUE`. -/
def Response.payloadLength (cfg : Config) (i : Instr) : Response → Nat
  | .ok | .skipped | .ignored => 0
  | .emitted _ => cfg.nOut
  | .mismatch _ _ _ => 3
  | .badHex _ | .illegalCmd _ | .badOperand _ => 1
  | .value _ => if i = .rdreg 0x05#8 ∨ i = .rdreg 0x06#8 then 4 else 1

/-- The command answers a next state with one response, of the length R81 gives. -/
def AnswersOnce (i : Instr) (s : State) : Prop :=
  ∃ t r, exec i s = .next t ∧ t.sent = s.sent ++ [r] ∧ r.payload.length = r.payloadLength s.cfg i

theorem line_answersOnce (c : List Byte) (s : State) : AnswersOnce (.line c) s := by
  rcases execLine_cases c s with ⟨-, hx⟩ | ⟨-, -, -, hx⟩ | ⟨k, -, -, -, -, hx⟩ | ⟨e, -, -, -, -, -, -, hx⟩ |
    ⟨e, -, -, -, hl, -, -, hx⟩
  case inr.inr.inr.inr => exact ⟨_, _, hx, rfl, emit_length _ _ _ (toBytes_length _ _ hl)⟩
  all_goals exact ⟨_, _, hx, rfl, rfl⟩

theorem rdreg_answersOnce (idx : Byte) (s : State) : AnswersOnce (.rdreg idx) s := by
  refine ⟨_, _, execRdreg_eq idx s, rfl, ?_⟩
  cases h : registerAt s.cfg idx with
  | none => rfl
  | some q =>
    simpa [Response.payload, Response.payloadLength, Register.snapshot] using width_of_registerAt h

theorem exec_answersOnce (i : Instr) (s : State) : AnswersOnce i s := by
  cases i with
  | reset => exact ⟨_, _, execReset_eq s, rfl, rfl⟩
  | line c => exact line_answersOnce c s
  | finish =>
    refine ⟨_, _, execFinish_eq s, rfl, ?_⟩
    split <;> rfl
  | rdreg idx => exact rdreg_answersOnce idx s
  | rsum b =>
    refine ⟨_, _, execRsum_eq b s, rfl, ?_⟩
    split <;> simp [Response.payload, Response.payloadLength]
  | csa v =>
    refine ⟨_, _, execCsa_eq v s, rfl, ?_⟩
    split <;> simp [Response.payload, Response.payloadLength]
  | csb v => exact ⟨_, _, execCsb_eq v s, rfl, by simp [Response.payload, Response.payloadLength]⟩

/-- Settles O12: `exec_answersOnce`, with its length read off for each code. -/
theorem everyCommandAnswersExactlyOnce : Obligations.EveryCommandAnswersExactlyOnce := by
  intro i s _
  obtain ⟨t, r, hx, hs, hlen⟩ := exec_answersOnce i s
  refine ⟨t, r, hx, hs, rfl, ?_⟩
  rw [hlen]
  cases r <;> simp [Response.code, Response.payloadLength]

theorem step_of_decode_command {s : State} {i : Instr} {rest : List Byte} (h : decode s.port = .command i rest) :
    step s = exec i { s with port := rest } := by
  simp only [step, State.fetch, h]

/-- Inside a command, with no hardware reset pending, the block waits (R82). -/
theorem step_of_decode_incomplete {s : State} (hd : decode s.port = .incomplete) (hr : s.pendingResets = [])
    (hp : s.port ≠ []) : step s = .fault .incompleteCommand := by
  simp [step, State.fetch, hd, hr, hp]

/-- Settles O8: the stop by `decode_eq_incomplete_iff`; the completed command runs and answers once. -/
theorem incompleteCommandHasNoStep : Obligations.IncompleteCommandHasNoStep := by
  intro s op rest hp hl hr
  refine ⟨step_of_decode_incomplete ((decode_eq_incomplete_iff _).mpr hl) hr (by simp [hp]), ?_⟩
  intro more tail i hd
  obtain ⟨t, r, hx, hs, -⟩ := exec_answersOnce i { s with port := tail }
  exact ⟨t, r, (step_of_decode_command hd).trans hx, hs⟩

end Sys2Proof.Machine
end

section
/-! The Record Decoder reads a line through its payload alone (30_encoding.md R72, 40_record_decoder.md R108), and
each data byte from two neighbouring payload characters (R73, R105). -/

namespace Sys2Proof.Machine

open Sys2Proof

variable {cfg : Config} {c c' : List Byte}

/-- Payload position k is line position 9 + k (R102). -/
theorem payload_getD {k : Nat} (h : k < cfg.nPayChars) :
    (payload cfg c).getD k 0#8 = c.getD (9 + k) 0#8 := by
  simp [List.getD_eq_getElem?_getD, payload_getElem?, h, prefixLen]

/-- The length of a payload depends on the line's length alone. -/
theorem payload_length_congr (h : c.length = c'.length) :
    (payload cfg c).length = (payload cfg c').length := by
  simp [payload, h]

theorem payload_length_le : (payload cfg c).length ≤ cfg.nPayChars :=
  List.length_take_le _ _

/-- Pair i holds the characters at 2i and 2i + 1. -/
theorem pairUp_eq_map_range (l : List Byte) :
    pairUp l = (List.range (l.length / 2)).map fun i => (l.getD (2 * i) 0#8, l.getD (2 * i + 1) 0#8) := by
  induction l using pairUp.induct with
  | case1 a b rest ih =>
    have hlen : (a :: b :: rest).length / 2 = rest.length / 2 + 1 := by
      simp only [List.length_cons]
      omega
    rw [pairUp, hlen, List.range_succ_eq_map, ih]
    simp [Function.comp_def, Nat.mul_succ]
  | case2 l h =>
    exact match l, h with
    | [], _ => rfl
    | [_], _ => by simp [pairUp]
    | a :: b :: rest, h => absurd rfl (h a b rest)

/-- Data byte i comes from line positions 9 + 2i and 9 + 2i + 1, for every line (R73, R105). -/
theorem toBytes_eq_map_range (cfg : Config) (c : List Byte) :
    toBytes cfg c = (List.range ((payload cfg c).length / 2)).map fun i =>
      BitVec.ofNat 8 (16 * hexval (c.getD (9 + 2 * i) 0#8) + hexval (c.getD (9 + 2 * i + 1) 0#8)) := by
  rw [toBytes, tokens, pairUp_eq_map_range, List.map_map]
  refine List.map_congr_left fun i hi => ?_
  have hlt : 2 * i + 1 < cfg.nPayChars := by
    have := List.mem_range.mp hi
    have := payload_length_le (cfg := cfg) (c := c)
    omega
  rw [Function.comp_apply, tokenByte, payload_getD (by omega), payload_getD hlt, Nat.add_assoc]

theorem toBytes_congr_hexval (hl : c.length = c'.length)
    (hv : ∀ k, hexval (c.getD k 0#8) = hexval (c'.getD k 0#8)) : toBytes cfg c = toBytes cfg c' := by
  simp only [toBytes_eq_map_range, payload_length_congr hl, hv]

theorem hexval_lt (ch : Byte) : hexval ch < 16 := by
  rw [hexval_eq_toNat]
  split_ifs <;> omega

/-- Two nibbles fit in a byte: nothing is cut off. -/
theorem tokenByte_toNat (a b : Byte) : (tokenByte (a, b)).toNat = 16 * hexval a + hexval b := by
  have ha := hexval_lt a
  have hb := hexval_lt b
  rw [tokenByte, BitVec.toNat_ofNat, Nat.mod_eq_of_lt (by dsimp only; omega)]

/-- Settles O17: by `toBytes_eq_map_range`, `toBytes_congr_hexval` and `tokenByte_toNat`. -/
theorem dataBytesComeFromCharacterPairs : Obligations.DataBytesComeFromCharacterPairs := by
  refine ⟨fun cfg c _ hlen => ?_, fun _ _ _ => toBytes_congr_hexval, fun a b _ _ => tokenByte_toNat a b⟩
  rw [toBytes_eq_map_range, payload_length cfg c hlen, Config.nData]

theorem payload_congr (hl : c.length = c'.length)
    (h : ∀ k, k < cfg.nPayChars → c.getD (9 + k) 0#8 = c'.getD (9 + k) 0#8) :
    payload cfg c = payload cfg c' := by
  refine List.ext_getElem (payload_length_congr hl) fun k hk hk' => ?_
  have hlt : k < cfg.nPayChars := lt_of_lt_of_le hk payload_length_le
  rw [← List.getD_eq_getElem _ 0#8 hk, ← List.getD_eq_getElem _ 0#8 hk', payload_getD hlt, payload_getD hlt,
    h k hlt]

/-- Gate, hex check and conversion read the line's length and its payload, and nothing else. -/
theorem decodeRecord_congr (hl : c.length = c'.length) (hp : payload cfg c = payload cfg c') :
    decodeRecord cfg c = decodeRecord cfg c' := by
  simp only [decodeRecord, hexcheck, toBytes, tokens, hl, hp]

/-- `LINE` sees its line only through the decoder. -/
theorem exec_line_congr {s : State} (h : decodeRecord s.cfg c = decodeRecord s.cfg c') :
    exec (.line c) s = exec (.line c') s := by
  simp only [exec, execLine, processLine, h]

/-- Settles O18: equal payload characters give equal payloads, so the decoder gives the same result. -/
theorem droppedFieldsAreNeverInspected : Obligations.DroppedFieldsAreNeverInspected := by
  intro s c c' _ hl h
  refine exec_line_congr (decodeRecord_congr hl (payload_congr hl fun k hk => h (9 + k) (by omega) ?_))
  simp only [Config.nPayChars, prefixLen, suffixLen] at hk
  omega

end Sys2Proof.Machine
end

section
/-! The hex check by line positions (40_record_decoder.md R104): the model searches the payload, the obligation
speaks of positions in the line. Payload position i is line position 9 + i, so the lemmas here carry the search
across that shift. -/

namespace Sys2Proof.Machine

open Sys2Proof

variable {cfg : Config} {c : List Byte}

/-- The payload ends at line position `RECORD_LEN` - 3 (R102). -/
theorem lt_nPayChars_iff (i : Nat) : i < cfg.nPayChars ↔ 9 + i ≤ cfg.recordLen - 3 := by
  simp only [Config.nPayChars, prefixLen, suffixLen]
  omega

/-- Every line position from 9 on is 9 + i for one i. -/
theorem forall_position_iff (P : Nat → Prop) : (∀ j, 9 ≤ j → P j) ↔ ∀ i, P (9 + i) := by
  constructor
  · intro h i
    exact h (9 + i) (Nat.le_add_right 9 i)
  · intro h j h9
    obtain ⟨i, rfl⟩ := Nat.exists_eq_add_of_le h9
    exact h i

theorem payload_getElem {i : Nat} (h : i < (payload cfg c).length) :
    (payload cfg c)[i] = c.getD (9 + i) 0#8 := by
  rw [← List.getD_eq_getElem _ 0#8 h, payload_getD (lt_of_lt_of_le h payload_length_le)]

theorem hexcheck_eq_none_iff (hl : c.length = cfg.recordLen) :
    hexcheck cfg c = none ↔ ∀ j, 9 ≤ j → j ≤ cfg.recordLen - 3 → isHex (c.getD j 0#8) = true := by
  rw [forall_position_iff]
  simp [hexcheck, List.forall_mem_iff_getElem, payload_getElem, payload_length cfg c hl, lt_nPayChars_iff]

/-- The search answers a payload position, shifted into the line. -/
theorem hexcheck_eq_some_iff_payload (k : Nat) :
    hexcheck cfg c = some k ↔ ∃ i, (payload cfg c).findIdx? (fun ch => !isHex ch) = some i ∧ 9 + i = k := by
  simp [hexcheck, prefixLen, Nat.add_comm]

theorem hexcheck_eq_some_add_iff (hl : c.length = cfg.recordLen) (i : Nat) :
    hexcheck cfg c = some (9 + i) ↔
      9 + i ≤ cfg.recordLen - 3 ∧ isHex (c.getD (9 + i) 0#8) = false ∧
        ∀ j, 9 ≤ j → j < 9 + i → isHex (c.getD j 0#8) = true := by
  rw [forall_position_iff]
  simp [hexcheck_eq_some_iff_payload, List.findIdx?_eq_some_iff_getElem, payload_getElem,
    payload_length cfg c hl, lt_nPayChars_iff, and_left_comm]

theorem le_of_hexcheck_eq_some {k : Nat} (h : hexcheck cfg c = some k) : 9 ≤ k := by
  obtain ⟨i, -, rfl⟩ := (hexcheck_eq_some_iff_payload k).mp h
  exact Nat.le_add_right 9 i

/-- Settles O16: no answer lies below position 9, and at 9 + i the answer is the first bad character. -/
theorem hexcheckFindsTheFirstBadCharacter : Obligations.HexcheckFindsTheFirstBadCharacter := by
  intro cfg c _ hl
  refine ⟨fun k => ?_, hexcheck_eq_none_iff hl⟩
  by_cases h9 : 9 ≤ k
  · obtain ⟨i, rfl⟩ := Nat.exists_eq_add_of_le h9
    rw [hexcheck_eq_some_add_iff hl, and_iff_right h9]
  · exact iff_of_false (fun h => h9 (le_of_hexcheck_eq_some h)) (fun ⟨h, _⟩ => h9 h)

end Sys2Proof.Machine
end

section
/-! The length gate (40_record_decoder.md R100, 60_exceptions.md R212): of what `LINE` can do in `RUN`, a line that
fails the gate meets the condition of one case only, the skip. -/

namespace Sys2Proof.Machine

open Sys2Proof

theorem exec_line_of_length_ne {c : List Byte} {s : State} (hp : s.regs.phase = .run)
    (hl : c.length ≠ s.cfg.recordLen) :
    exec (.line c) s = .next { s with
      regs := { s.regs with skipCount := s.regs.skipCount + 1#32 }, sent := s.sent ++ [.skipped] } := by
  rcases execLine_cases c s with ⟨hn, -⟩ | ⟨-, -, -, hx⟩ | ⟨_, -, -, heq, -⟩ | ⟨_, -, -, -, heq, -⟩ |
    ⟨_, -, -, -, heq, -⟩
  · exact absurd hp hn
  · exact hx
  all_goals exact absurd heq hl

/-- Settles O35: the gate by `gate_iff`, the skip by `exec_line_of_length_ne`. -/
theorem lineOfAnotherLengthIsSkipped : Obligations.LineOfAnotherLengthIsSkipped :=
  ⟨gate_iff, fun _ _ => exec_line_of_length_ne⟩

end Sys2Proof.Machine
end

section
/-! The accumulator of the Checksum Engine (41_checksum_engine.md R121 to R124): reducing once, at the end, is
adding byte by byte, and the engine's sum is that of the header and the data. -/

namespace Sys2Proof.Machine

open Sys2Proof

/-- The reduction that makes a byte of the exact sum is the one modulo 256. -/
theorem sumMod256_eq_mod (bs : List Byte) : sumMod256 bs = BitVec.ofNat 8 ((bs.map BitVec.toNat).sum % 256) :=
  BitVec.eq_of_toNat_eq (by simp [sumMod256, exactSum])

theorem sumMod256_nil : sumMod256 [] = 0#8 := rfl

theorem sumMod256_cons (b : Byte) (bs : List Byte) : sumMod256 (b :: bs) = b + sumMod256 bs := by
  simp [sumMod256, BitVec.ofNat_add]

/-- Bytewise addition from any start adds the sum that is reduced once. -/
theorem foldl_add_eq_add_sumMod256 (acc : Byte) (bs : List Byte) :
    bs.foldl (fun acc b => acc + b) acc = acc + sumMod256 bs := by
  induction bs generalizing acc with
  | nil => rw [List.foldl_nil, sumMod256_nil, BitVec.add_zero]
  | cons b bs ih => rw [List.foldl_cons, ih, sumMod256_cons, BitVec.add_assoc]

/-- The running sum never reads the last element (R121). -/
theorem runningSum_concat (bs : List Byte) (x : Byte) : runningSum (bs ++ [x]) = sumMod256 bs := by
  rw [runningSum, List.dropLast_concat]

theorem byte_succ_mem_domain (s : Byte) : 1 ≤ s.toNat + 1 ∧ s.toNat + 1 ≤ 256 :=
  ⟨Nat.le_add_left 1 _, s.isLt⟩

/-- Settles O20: the fold from 0 by `foldl_add_eq_add_sumMod256`; s + 1 is the argument of `engine_cs`. -/
theorem reducingOnceEqualsReducingEachTime : Obligations.ReducingOnceEqualsReducingEachTime := by
  refine ⟨fun bs => ?_, fun cfg d => ?_⟩
  · rw [foldl_add_eq_add_sumMod256, BitVec.zero_add]
  · obtain ⟨hlow, hhigh⟩ := byte_succ_mem_domain (engine cfg d).sum
    exact ⟨_, hlow, hhigh, rfl, engine_cs cfg d⟩

/-- Settles O19: the last element is dropped, and the rest is reduced once. -/
theorem runningSumLeavesOutTheLastByte : Obligations.RunningSumLeavesOutTheLastByte := by
  intro bs x
  rw [runningSum_concat, sumMod256_eq_mod]

/-- Settles O21: the engine sums header and data, which is what a running sum with one more byte reads. -/
theorem recordSumCoversEveryByte : Obligations.RecordSumCoversEveryByte := by
  intro cfg d x
  refine ⟨?_, ?_⟩
  · rw [engine_sum, sumMod256_eq_mod, List.map_cons, List.map_cons, List.sum_cons, List.sum_cons, Nat.add_assoc]
  · rw [engine_seq, runningSum_concat, engine_sum]

end Sys2Proof.Machine
end

section
/-! Derivation A (41_checksum_engine.md R125 to R127). The model flips a string of bits before its last '1'; by
induction on the string, what comes out and what went in add up to the power of two of the string's length. So
derivation A is two's-complement negation, and its bit form is that of a negated word. -/

namespace Sys2Proof.Machine

open Sys2Proof

variable {b : Bool} {str : List Bool} {idx : Nat}

theorem foldl_bits_eq_add_ofBits (acc : Nat) (str : List Bool) :
    str.foldl (fun acc b => 2 * acc + b.toNat) acc = acc * 2 ^ str.length + ofBits str := by
  induction str generalizing acc with
  | nil => simp [ofBits]
  | cons b rest ih =>
    rw [ofBits, List.foldl_cons, List.foldl_cons, ih, ih (2 * 0 + b.toNat), List.length_cons, Nat.pow_succ]
    ring

@[simp] theorem ofBits_nil : ofBits [] = 0 := rfl

/-- The first bit of a string has the highest weight. -/
@[simp] theorem ofBits_cons (b : Bool) (str : List Bool) :
    ofBits (b :: str) = b.toNat * 2 ^ str.length + ofBits str := by
  rw [ofBits, List.foldl_cons, foldl_bits_eq_add_ofBits, Nat.mul_zero, Nat.zero_add]

/-- Reading back the n low bits of v gives v modulo 2^n. -/
theorem ofBits_lowBits (n v : Nat) : ofBits ((List.range n).reverse.map v.testBit) = v % 2 ^ n := by
  induction n with
  | zero => simp [Nat.mod_one]
  | succ n ih =>
    have top : (v.testBit n).toNat = v / 2 ^ n % 2 := Nat.toNat_testBit v n
    simp only [List.range_succ, List.reverse_append, List.reverse_singleton, List.singleton_append,
      List.map_cons, ofBits_cons, ih, top, List.length_map, List.length_reverse, List.length_range,
      Nat.mod_pow_succ]
    ring

theorem ofBits_bits8 {v : Nat} (h : v < 256) : ofBits (bits8 v) = v :=
  (ofBits_lowBits 8 v).trans (Nat.mod_eq_of_lt h)

theorem bits8_length (v : Nat) : (bits8 v).length = 8 := rfl

theorem lastOne_cons_of_some (h : lastOne str = some idx) : lastOne (b :: str) = some (idx + 1) := by
  simp only [lastOne, h]

theorem lastOne_cons_of_none (h : lastOne str = none) : lastOne (b :: str) = if b then some 0 else none := by
  simp only [lastOne, h]

/-- A string without a '1' has the value 0. -/
theorem ofBits_of_lastOne_eq_none (h : lastOne str = none) : ofBits str = 0 := by
  induction str with
  | nil => rfl
  | cons b rest ih =>
    cases hr : lastOne rest with
    | some j => simp [lastOne_cons_of_some hr] at h
    | none =>
      obtain rfl : b = false := by simpa [lastOne_cons_of_none hr] using h
      simp [ih hr]

theorem flipBefore_zero : flipBefore 0 str = str := rfl

theorem flipBefore_succ_cons : flipBefore (idx + 1) (b :: str) = (!b) :: flipBefore idx str := rfl

theorem flipBefore_length : (flipBefore idx str).length = str.length := by
  rw [flipBefore, List.length_append, List.length_map, ← List.length_append, List.take_append_drop]

/-- The idea of derivation A (R127): a string and its flip before the last '1' are each other's two's
complement. At each bit before the last '1' exactly one of the two has a '1'; from there on they are equal. -/
theorem ofBits_add_ofBits_flipBefore (h : lastOne str = some idx) :
    ofBits str + ofBits (flipBefore idx str) = 2 ^ str.length := by
  induction str generalizing idx with
  | nil => cases h
  | cons b rest ih =>
    cases hr : lastOne rest with
    | some j =>
      obtain rfl : j + 1 = idx := by simpa [lastOne_cons_of_some hr] using h
      have one : b.toNat + (!b).toNat = 1 := by cases b <;> rfl
      calc
        ofBits (b :: rest) + ofBits (flipBefore (j + 1) (b :: rest))
          = (b.toNat + (!b).toNat) * 2 ^ rest.length + (ofBits rest + ofBits (flipBefore j rest)) := by
            rw [flipBefore_succ_cons, ofBits_cons, ofBits_cons, flipBefore_length]
            ring
        _ = 2 ^ (b :: rest).length := by
            rw [one, ih hr, List.length_cons, Nat.pow_succ]
            ring
    | none =>
      obtain ⟨rfl, rfl⟩ : b = true ∧ 0 = idx := by simpa [lastOne_cons_of_none hr] using h
      rw [flipBefore_zero, ofBits_cons, ofBits_of_lastOne_eq_none hr, List.length_cons, Nat.pow_succ,
        Bool.toNat_true]
      ring

variable (cfg : Config) {v p : Nat}

theorem derivationA_256 : derivationA cfg 256 = 0x00#8 := rfl

theorem derivationA_zero : derivationA cfg 0 = cfg.csaZero := rfl

/-- Derivation A is two's-complement negation on 1..256 (R127). -/
theorem derivationA_eq_ofNat (hlow : 1 ≤ v) (hhigh : v ≤ 256) : derivationA cfg v = BitVec.ofNat 8 (256 - v) := by
  by_cases h : v = 256
  · subst h
    rfl
  have hv : ofBits (bits8 v) = v := ofBits_bits8 (by omega)
  cases hone : lastOne (bits8 v) with
  | none =>
    have := ofBits_of_lastOne_eq_none hone
    omega
  | some idx =>
    have hadd := ofBits_add_ofBits_flipBefore hone
    rw [hv, bits8_length] at hadd
    rw [derivationA, if_neg h, hone]
    exact congrArg (BitVec.ofNat 8) (by omega)

theorem derivationA_eq_neg (hlow : 1 ≤ v) (hhigh : v ≤ 256) : derivationA cfg v = -BitVec.ofNat 8 v := by
  rw [derivationA_eq_ofNat cfg hlow hhigh]
  apply BitVec.eq_of_toNat_eq
  simp only [BitVec.toNat_neg, BitVec.toNat_ofNat]
  omega

theorem derivationA_succ_eq_ofNat (s : Byte) : derivationA cfg (s.toNat + 1) = BitVec.ofNat 8 (255 - s.toNat) := by
  obtain ⟨hlow, hhigh⟩ := byte_succ_mem_domain s
  rw [derivationA_eq_ofNat cfg hlow hhigh, Nat.add_comm, Nat.sub_add_eq]

/-- Derivation A of s + 1 is derivation B of s: both are 255 - s (R127, R128). -/
theorem derivationA_succ_eq_derivationB (s : Byte) : derivationA cfg (s.toNat + 1) = derivationB s := by
  have hs := s.isLt
  have hb : derivationB s = ~~~s := BitVec.xor_allOnes
  rw [derivationA_succ_eq_ofNat, hb]
  apply BitVec.eq_of_toNat_eq
  rw [BitVec.toNat_not, BitVec.toNat_ofNat]
  omega

/-- Some bit below j is set exactly when the lowest set bit is below j. -/
theorem exists_testBit_below_iff {j : Nat} (hp : v.testBit p = true) (hlow : ∀ q, q < p → v.testBit q = false) :
    (∃ q < j, v.testBit q = true) ↔ p < j := by
  constructor
  · rintro ⟨q, hq, hset⟩
    by_contra hpj
    simp [hlow q (by omega)] at hset
  · exact fun h => ⟨p, h, hp⟩

/-- Settles O24: `derivationA_eq_ofNat` in its domain, and derivation B at s + 1. -/
theorem derivationAIsNegation : Obligations.DerivationAIsNegation := by
  refine ⟨fun cfg v hlow hhigh => ?_, fun cfg s =>
    ⟨derivationA_succ_eq_ofNat cfg s, derivationA_succ_eq_derivationB cfg s⟩⟩
  rw [derivationA_eq_ofNat cfg hlow hhigh, Nat.mod_eq_of_lt (by omega)]

/-- Settles O22: a negated word has bit j flipped exactly when a lower bit is set, that is, above p. -/
theorem derivationAFlipsAboveTheLowestSetBit : Obligations.DerivationAFlipsAboveTheLowestSetBit := by
  intro cfg v p hlow hhigh hp hbelow j hj
  have bit : ∀ q, q ≤ j → (BitVec.ofNat 8 v).getLsbD q = v.testBit q := fun q hq => by
    rw [BitVec.getLsbD_ofNat, decide_eq_true (by omega : q < 8), Bool.true_and]
  have lower : (∃ q < j, (BitVec.ofNat 8 v).getLsbD q = true) ↔ p < j := by
    rw [← exists_testBit_below_iff hp hbelow]
    exact exists_congr fun q => and_congr_right fun hq => by rw [bit q hq.le]
  rw [derivationA_eq_neg cfg hlow (by omega), BitVec.getLsbD_neg, bit j le_rfl]
  by_cases hjp : j ≤ p
  · simp [lower, hjp, Nat.not_lt.mpr hjp]
  · simp [lower, hjp, hj, Nat.lt_of_not_le hjp]

/-- Settles O23: the two ends by evaluation, the refusal by `execCsa_eq`. -/
theorem derivationAAtTheEndsOfItsDomain : Obligations.DerivationAAtTheEndsOfItsDomain := by
  refine ⟨fun cfg => ⟨derivationA_256 cfg, derivationA_zero cfg⟩, byte_succ_mem_domain, fun v s hv => ?_⟩
  rw [execCsa_eq, if_neg (Nat.not_le.mpr hv)]

end Sys2Proof.Machine
end

section
/-! The validation in its two modes (41_checksum_engine.md R130, R131). `CROSS_B` compares two forms of 255 - s,
`AS_BUILT` compares 255 - s with 256 - s; a line aborts the run by the validation only where they differ. -/

namespace Sys2Proof.Machine

open Sys2Proof

variable {cfg : Config} {s t : State} {c d : List Byte}

theorem engine_cs_eq_derivationB (cfg : Config) (d : List Byte) :
    (engine cfg d).cs = derivationB (engine cfg d).sum := by
  rw [engine_cs, derivationA_succ_eq_derivationB]

theorem engine_cs2_of_crossB (d : List Byte) (h : cfg.mode = .crossB) :
    (engine cfg d).cs2 = derivationB (engine cfg d).sum := by
  rw [engine_cs2, comparisonValue, h]

theorem engine_cs2_of_asBuilt (d : List Byte) (h : cfg.mode = .asBuilt) :
    (engine cfg d).cs2 = derivationA cfg (engine cfg d).sum.toNat := by
  rw [engine_cs2, comparisonValue, h]

theorem engine_agree_of_crossB (d : List Byte) (h : cfg.mode = .crossB) : (engine cfg d).agree = true := by
  rw [engine_agree, engine_cs_eq_derivationB, engine_cs2_of_crossB d h]

theorem engine_cs_toNat (cfg : Config) (d : List Byte) :
    (engine cfg d).cs.toNat = 255 - (engine cfg d).sum.toNat := by
  rw [engine_cs, derivationA_succ_eq_ofNat, BitVec.toNat_ofNat]
  omega

/-- In `AS_BUILT` mode the second checksum of a sum that is not 0 is one more than the first. -/
theorem engine_cs2_toNat_of_asBuilt (h : cfg.mode = .asBuilt) (hs : (engine cfg d).sum ≠ 0#8) :
    (engine cfg d).cs2.toNat = 256 - (engine cfg d).sum.toNat := by
  have hpos : (engine cfg d).sum.toNat ≠ 0 := fun h0 => hs (BitVec.eq_of_toNat_eq h0)
  have hlt := (engine cfg d).sum.isLt
  rw [engine_cs2_of_asBuilt d h, derivationA_eq_ofNat cfg (by omega) (by omega), BitVec.toNat_ofNat]
  omega

theorem engine_agree_ne_true_of_asBuilt (h : cfg.mode = .asBuilt) (hs : (engine cfg d).sum ≠ 0#8) :
    ¬(engine cfg d).agree = true := by
  intro ha
  have hcs := engine_cs_toNat cfg d
  have hcs2 := engine_cs2_toNat_of_asBuilt h hs
  have hlt := (engine cfg d).sum.isLt
  rw [engine_agree] at ha
  rw [ha] at hcs
  omega

/-- At s = 0 the first checksum is 0xFF, and the second is whatever `CSA_ZERO` is. -/
theorem engine_agree_iff_of_asBuilt_zero (h : cfg.mode = .asBuilt) (hs : (engine cfg d).sum = 0#8) :
    (engine cfg d).agree = true ↔ cfg.csaZero = 0xFF#8 := by
  have hcs : (engine cfg d).cs = 0xFF#8 := by
    rw [engine_cs_eq_derivationB, hs]
    rfl
  have hcs2 : (engine cfg d).cs2 = cfg.csaZero := by
    rw [engine_cs2_of_asBuilt d h, hs]
    exact derivationA_zero cfg
  rw [engine_agree, hcs, hcs2, eq_comm]

theorem engine_agree_iff_of_asBuilt (h : cfg.mode = .asBuilt) :
    (engine cfg d).agree = true ↔ (engine cfg d).sum = 0#8 ∧ cfg.csaZero = 0xFF#8 := by
  by_cases hs : (engine cfg d).sum = 0#8
  · rw [engine_agree_iff_of_asBuilt_zero h hs, and_iff_right hs]
  · exact iff_of_false (engine_agree_ne_true_of_asBuilt h hs) fun hand => hs hand.1

/-- `LINE` answers `MISMATCH` only where the checksums disagree. -/
theorem not_agree_of_line_mismatch {x y z : Byte} (h : exec (.line c) s = .next t)
    (hs : t.sent = s.sent ++ [.mismatch x y z]) : (engine s.cfg (toBytes s.cfg c)).agree = false := by
  rcases execLine_cases c s with ⟨-, hx⟩ | ⟨-, -, -, hx⟩ | ⟨k, -, -, -, -, hx⟩ | ⟨e, rfl, -, -, -, -, ha, -⟩ |
    ⟨e, -, -, -, -, -, -, hx⟩
  case inr.inr.inr.inl => exact ha
  all_goals
    rw [hx, Host.Outcome.next.injEq] at h
    simp [← h] at hs

/-- The two ways in which a line aborts the run (R211). -/
theorem line_abort_cases (h : exec (.line c) s = .next t) (hrun : s.regs.phase = .run)
    (habort : t.regs.phase = .abort) :
    (∃ k, c.length = s.cfg.recordLen ∧ hexcheck s.cfg c = some k) ∨
      (engine s.cfg (toBytes s.cfg c)).agree = false := by
  rcases execLine_cases c s with ⟨hn, -⟩ | ⟨-, -, -, hx⟩ | ⟨k, -, -, hl, hk, -⟩ | ⟨e, rfl, -, -, -, -, ha, -⟩ |
    ⟨e, -, -, -, -, -, -, hx⟩
  case inl => exact absurd hrun hn
  case inr.inr.inl => exact .inl ⟨k, hl, hk⟩
  case inr.inr.inr.inl => exact .inr ha
  all_goals
    rw [hx, Host.Outcome.next.injEq] at h
    simp [← h, hrun] at habort

/-- A decoded line whose checksums disagree aborts the run with `MISMATCH` (R213). -/
theorem line_aborts_of_not_agree (hrun : s.regs.phase = .run) (hd : decodeRecord s.cfg c = .data d)
    (ha : ¬(engine s.cfg d).agree = true) :
    ∃ t, exec (.line c) s = .next t ∧ t.regs.phase = .abort ∧ t.regs.abortCause = .mismatch := by
  rcases execLine_cases c s with ⟨hn, -⟩ | ⟨-, hskip, -⟩ | ⟨k, -, hbad, -⟩ | ⟨e, -, -, -, -, -, -, hx⟩ |
    ⟨e, rfl, -, hdata, -, -, hagree, -⟩
  · exact absurd hrun hn
  · simp [hd] at hskip
  · simp [hd] at hbad
  · exact ⟨_, hx, rfl, rfl⟩
  · obtain rfl : d = toBytes s.cfg c := by simpa [hd] using hdata
    exact absurd hagree ha

/-- Settles O25: the checksums agree, so neither the answer nor the abort of a disagreement can come. -/
theorem crossBDetectsNoMismatch : Obligations.CrossBDetectsNoMismatch := by
  refine ⟨fun cfg d => engine_agree_of_crossB d, fun s t c hlegal hmode h => ⟨fun x y z hs => ?_, ?_⟩⟩
  · simpa [engine_agree_of_crossB _ hmode] using not_agree_of_line_mismatch h hs
  · intro hrun habort
    rcases line_abort_cases h hrun habort with ⟨k, hl, hk⟩ | ha
    · obtain ⟨hfirst, -⟩ := hexcheckFindsTheFirstBadCharacter s.cfg c hlegal hl
      obtain ⟨h9, hlast, hbad, -⟩ := (hfirst k).mp hk
      exact ⟨k, h9, hlast, hbad⟩
    · simp [engine_agree_of_crossB _ hmode] at ha

/-- Settles O26: agreement by `engine_agree_iff_of_asBuilt`, the two values each by its lemma, and the abort
where the values differ. -/
theorem asBuiltAgreesOnlyOnZero : Obligations.AsBuiltAgreesOnlyOnZero := by
  refine ⟨fun cfg d hmode => ⟨engine_agree_iff_of_asBuilt hmode, fun hs => ?_⟩, fun s c d hmode hrun hd hs => ?_⟩
  · exact ⟨engine_cs_toNat cfg d, engine_cs2_toNat_of_asBuilt hmode hs⟩
  · exact line_aborts_of_not_agree hrun hd (engine_agree_ne_true_of_asBuilt hmode hs)

end Sys2Proof.Machine
end

section
/-! Output records come only from accepted lines (42_array_emitter.md R151). A step adds at most one response, so it
adds a record only where that response carries one, and of all answers that is the last one of `LINE`. -/

namespace Sys2Proof.Machine

open Sys2Proof

variable {s t : State}

/-- A response that carries no record leaves the output records as they are. -/
theorem sentRecords_of_record_eq_none {r : Response} (ht : t.sent = s.sent ++ [r]) (hr : r.record = none) :
    t.sentRecords = s.sentRecords := by
  rw [sentRecords_append ht, hr, Option.toList_none, List.append_nil]

/-- No command but `LINE` answers with a record. -/
theorem sentRecords_of_exec_ne_line {i : Instr} (hi : ∀ c, i ≠ .line c) (h : exec i s = .next t) :
    t.sentRecords = s.sentRecords := by
  suffices ∃ u r, exec i s = .next u ∧ u.sent = s.sent ++ [r] ∧ r.record = none by
    obtain ⟨u, r, hx, hu, hr⟩ := this
    obtain rfl : u = t := by simpa [hx] using h
    exact sentRecords_of_record_eq_none hu hr
  cases i with
  | line c => exact absurd rfl (hi c)
  | reset => exact ⟨_, _, execReset_eq s, rfl, rfl⟩
  | finish => exact ⟨_, _, execFinish_eq s, rfl, by split <;> rfl⟩
  | rdreg idx => exact ⟨_, _, execRdreg_eq idx s, rfl, by cases registerAt s.cfg idx <;> rfl⟩
  | rsum b => exact ⟨_, _, execRsum_eq b s, rfl, by split <;> rfl⟩
  | csa v => exact ⟨_, _, execCsa_eq v s, rfl, by split <;> rfl⟩
  | csb v => exact ⟨_, _, execCsb_eq v s, rfl, rfl⟩

/-- Of the five answers of `LINE`, only that of an accepted line carries a record: its own (R150, R151). -/
theorem accepted_of_exec_line_sentRecords_ne {c : List Byte} (h : exec (.line c) s = .next t)
    (hne : t.sentRecords ≠ s.sentRecords) :
    s.regs.phase = .run ∧ c.length = s.cfg.recordLen ∧ hexcheck s.cfg c = none ∧
      (engine s.cfg (toBytes s.cfg c)).agree = true ∧
      t.sentRecords = s.sentRecords ++ [emit s.cfg (toBytes s.cfg c) (engine s.cfg (toBytes s.cfg c)).cs] := by
  rcases execLine_cases c s with ⟨-, hx⟩ | ⟨-, -, -, hx⟩ | ⟨k, -, -, -, -, hx⟩ | ⟨e, -, -, -, -, -, -, hx⟩ |
    ⟨e, rfl, hp, -, hl, hk, ha, hx⟩
  all_goals
    rw [hx, Host.Outcome.next.injEq] at h
    subst h
  case inr.inr.inr.inr => exact ⟨hp, hl, hk, ha, sentRecords_append (r := .emitted _) rfl⟩
  all_goals exact absurd (sentRecords_of_record_eq_none rfl rfl) hne

/-- Settles O49: an illegal opcode and a hardware reset send no record, nor does a command other than `LINE`; for
`LINE` it is `accepted_of_exec_line_sentRecords_ne`. -/
theorem recordsComeOnlyFromAcceptedLines : Obligations.RecordsComeOnlyFromAcceptedLines := by
  intro s t hstep hne
  rcases step_cases hstep with ⟨i, rest, hd, hx⟩ | ⟨op, rest, -, rfl⟩ | ⟨bytes, more, -, -, rfl⟩
  · by_cases hi : ∀ c, i ≠ .line c
    · exact absurd (sentRecords_of_exec_ne_line hi hx) hne
    · push Not at hi
      obtain ⟨c, rfl⟩ := hi
      obtain ⟨hp, hl, hk, ha, hrecord⟩ := accepted_of_exec_line_sentRecords_ne hx hne
      exact ⟨hp, c, _, rest, hd, hl, hk, rfl, ha, hrecord⟩
  · exact absurd (sentRecords_of_record_eq_none rfl rfl) hne
  · exact absurd rfl hne

end Sys2Proof.Machine
end

section
/-! The checksum text (42_array_emitter.md R156): the host writes each nibble as one lower-case digit, `hexval` reads
that digit back as the nibble, and the two nibbles of a byte make the byte. -/

namespace Sys2Proof.Machine

open Sys2Proof

variable {n : Nat}

theorem lowerDigit_toNat (h : n < 16) :
    (lowerDigit n).toNat = if n < 10 then 0x30 + n else 0x61 + (n - 10) := by
  rw [lowerDigit, BitVec.toNat_ofNat, Nat.mod_eq_of_lt]
  split <;> omega

/-- The digit of a nibble is decimal or one of a to f. -/
theorem lowerDigit_range (h : n < 16) :
    (0x30 ≤ (lowerDigit n).toNat ∧ (lowerDigit n).toNat ≤ 0x39) ∨
      (0x61 ≤ (lowerDigit n).toNat ∧ (lowerDigit n).toNat ≤ 0x66) := by
  rw [lowerDigit_toNat h]
  split <;> omega

theorem hexval_lowerDigit (h : n < 16) : hexval (lowerDigit n) = n := by
  have hcode := lowerDigit_toNat h
  by_cases hn : n < 10
  · rw [if_pos hn] at hcode
    rw [hexval_of_decimal (by omega)]
    omega
  · rw [if_neg hn] at hcode
    rw [hexval_of_lower (by omega)]
    omega

/-- Settles O57: both nibbles of cs are below 16, so each digit reads back as its nibble. -/
theorem checksumTextReadsBack : Obligations.ChecksumTextReadsBack := by
  intro cs
  have hhigh : cs.toNat / 16 < 16 := by
    have := cs.isLt
    omega
  have hlow : cs.toNat % 16 < 16 := Nat.mod_lt _ (by decide)
  refine ⟨_, _, rfl, BitVec.eq_of_toNat_eq ?_, ?_⟩
  · rw [tokenByte_toNat, hexval_lowerDigit hhigh, hexval_lowerDigit hlow, Nat.div_add_mod]
  · rintro ch (rfl | rfl)
    · exact lowerDigit_range hhigh
    · exact lowerDigit_range hlow

end Sys2Proof.Machine
end

section
/-! The two commands that write an element, and what the others leave (43_commands.md R173, R174). Outside `LINE`,
`RESET` writes every element and `FINISH` writes `PHASE`; all that remain are queries. -/

namespace Sys2Proof.Machine

open Sys2Proof

/-- Settles O28: one case of `execFinish_eq` for each phase. -/
theorem finishEndsTheInput : Obligations.FinishEndsTheInput := by
  refine ⟨decode_finish, fun s => ⟨fun hp => ?_, fun hp => ?_, fun hp => ?_⟩⟩
  · rw [execFinish_eq, if_pos hp, if_neg (by simp [hp])]
  · rw [execFinish_eq, if_neg (by simp [hp]), if_neg (by simp [hp])]
  · rw [execFinish_eq, if_neg (by simp [hp]), if_pos hp]

theorem regs_of_exec_query {i : Instr} {s t : State}
    (hq : (∃ idx, i = .rdreg idx) ∨ (∃ b, i = .rsum b) ∨ (∃ v, i = .csa v) ∨ (∃ v, i = .csb v))
    (h : exec i s = .next t) : t.regs = s.regs := by
  obtain ⟨r, hr⟩ := exec_query_answer s hq
  obtain rfl : s.respond r = t := by simpa [hr s rfl rfl] using h
  rfl

/-- A command other than `LINE` and `RESET` changes at most `PHASE`. -/
theorem regs_of_exec_ne_line_ne_reset {i : Instr} {s t : State} (hline : ∀ c, i ≠ .line c) (hreset : i ≠ .reset)
    (h : exec i s = .next t) : t.regs = { s.regs with phase := t.regs.phase } := by
  cases i with
  | line c => exact absurd rfl (hline c)
  | reset => exact absurd rfl hreset
  | finish => rw [regs_of_exec_finish h]
  | rdreg idx => rw [regs_of_exec_query (.inl ⟨idx, rfl⟩) h]
  | rsum b => rw [regs_of_exec_query (.inr (.inl ⟨b, rfl⟩)) h]
  | csa v => rw [regs_of_exec_query (.inr (.inr (.inl ⟨v, rfl⟩))) h]
  | csb v => rw [regs_of_exec_query (.inr (.inr (.inr ⟨v, rfl⟩))) h]

/-- Settles O39: the records by `sentRecords_of_exec_ne_line`, the elements after `RESET` and after every other
command by a lemma each. -/
theorem onlyLineEmitsOrCounts : Obligations.OnlyLineEmitsOrCounts := by
  intro i s t h hline
  refine ⟨sentRecords_of_exec_ne_line hline h, ?_, fun hreset => regs_of_exec_ne_line_ne_reset hline hreset h⟩
  rintro rfl
  exact regs_of_exec_reset h

end Sys2Proof.Machine
end

section
/-! The engine test commands (43_commands.md R176 to R178): each answers the engine's function of its operand, whose
value is that of the function's own lemma. -/

namespace Sys2Proof.Machine

open Sys2Proof

/-- Settles O31: the framing by `decodeCounted_complete`, the value by `runningSum_concat`. -/
theorem rsumAnswersTheSumOfAllButTheLast : Obligations.RsumAnswersTheSumOfAllButTheLast := by
  refine ⟨fun lo hi b rest hlen => decodeCounted_complete lo hi rest b .rsum hlen,
    fun s => ⟨execRsum_eq [] s, fun b x => ?_⟩⟩
  rw [execRsum_eq, if_neg (by simp), runningSum_concat, sumMod256_eq_mod]

/-- Settles O32: the two ends of the domain are `derivationA_zero` and the refusal; between them derivation A is
`derivationA_eq_ofNat`. -/
theorem csaAnswersDerivationA : Obligations.CsaAnswersDerivationA := by
  refine ⟨fun lo hi rest => ⟨BitVec.ofNat 16 (le16 lo hi), ?_, rfl⟩, fun v s => ?_⟩
  · rw [BitVec.toNat_ofNat, Nat.mod_eq_of_lt (le16_lt lo hi), le16]
  · rw [execCsa_eq]
    by_cases hzero : v.toNat = 0
    · simp [hzero, derivationA_zero]
    by_cases hle : v.toNat ≤ 256
    · rw [if_pos hle, if_neg hzero, if_pos hle, derivationA_eq_ofNat _ (by omega) hle,
        Nat.mod_eq_of_lt (by omega)]
    · rw [if_neg hle, if_neg hzero, if_neg hle]

/-- Settles O33: `execCsb_eq`, where derivation B is the complement by definition. -/
theorem csbAnswersTheComplement : Obligations.CsbAnswersTheComplement :=
  fun v s _ => ⟨rfl, execCsb_eq v s, rfl⟩

end Sys2Proof.Machine
end

section
/-! `RDREG` (43_commands.md R175): its index selects a register (10_state.md R32), and the register's value is
answered in as many bytes as the register has (20_memory.md R51, R53). Each half is said by its own lemmas, and
`exec_rdreg_of_byte` and `exec_rdreg_of_count` put them together. -/

namespace Sys2Proof.Machine

open Sys2Proof

variable {cfg : Config} {idx : Byte}

/-- From 0x0E on, only the range of `DIAG_SEQ` is assigned (R32). -/
theorem registerAt_of_ge (h : 0x0E ≤ idx.toNat) : registerAt cfg idx =
    if 0x40 ≤ idx.toNat ∧ idx.toNat < 0x40 + cfg.nSum then some (.diagSeq (idx.toNat - 0x40)) else none := by
  unfold registerAt
  split
  case h_14 => rfl
  all_goals omega

theorem registerAt_diagSeq (hlow : 0x40 ≤ idx.toNat) (hhigh : idx.toNat < 0x40 + cfg.nSum) :
    registerAt cfg idx = some (.diagSeq (idx.toNat - 0x40)) := by
  rw [registerAt_of_ge (by omega), if_pos ⟨hlow, hhigh⟩]

theorem registerAt_unassigned
    (h : idx = 0x07#8 ∨ (0x0E ≤ idx.toNat ∧ idx.toNat ≤ 0x3F) ∨ 0x40 + cfg.nSum ≤ idx.toNat) :
    registerAt cfg idx = none := by
  rcases h with rfl | h
  · rfl
  · rw [registerAt_of_ge (by omega), if_neg (by omega)]

/-- A legal `RECORD_LEN` leaves every `DIAG_SEQ` index below 256 (R5, R32). -/
theorem nSum_le_of_legal (h : cfg.legal = true) : cfg.nSum ≤ 124 := by
  simp only [Config.legal, Bool.and_eq_true, decide_eq_true_eq] at h
  simp only [Config.nSum, Config.nData, Config.nPayChars, prefixLen, suffixLen]
  omega

theorem registerAt_diagSeqBase_add {i : Nat} (hlegal : cfg.legal = true) (hi : i < cfg.nSum) :
    registerAt cfg (BitVec.ofNat 8 (0x40 + i)) = some (.diagSeq i) := by
  have hidx : (BitVec.ofNat 8 (0x40 + i)).toNat = 0x40 + i := by
    have := nSum_le_of_legal hlegal
    rw [BitVec.toNat_ofNat, Nat.mod_eq_of_lt (by omega)]
  rw [registerAt_diagSeq (by omega) (by omega), hidx, Nat.add_sub_cancel_left]

theorem littleEndian_byte (b : Byte) : littleEndian 1 b.toNat = [b] := by
  simp [littleEndian]

/-- The four bytes of a counter, the lowest first (R53). -/
theorem littleEndian_count (n : Count) : littleEndian 4 n.toNat =
    [n.extractLsb' 0 8, n.extractLsb' 8 8, n.extractLsb' 16 8, n.extractLsb' 24 8] := by
  simp [littleEndian, BitVec.extractLsb', Nat.shiftRight_eq_div_pow, Nat.div_div_eq_div_mul]

variable {s : State}

/-- An assigned index answers its register's bytes, and nothing else happens. -/
theorem exec_rdreg_of_register {q : Register} (hq : registerAt s.cfg idx = some q) :
    exec (.rdreg idx) s = .next { s with sent := s.sent ++ [.value (q.snapshot s.cfg s.regs)] } := by
  rw [execRdreg_eq, hq]
  rfl

theorem exec_rdreg_of_byte {q : Register} {b : Byte} (hq : registerAt s.cfg idx = some q) (hw : q.width = 1)
    (hv : q.read s.cfg s.regs = b.toNat) :
    exec (.rdreg idx) s = .next { s with sent := s.sent ++ [.value [b]] } := by
  rw [exec_rdreg_of_register hq, Register.snapshot, hw, hv, littleEndian_byte]

theorem exec_rdreg_of_count {q : Register} {n : Count} (hq : registerAt s.cfg idx = some q) (hw : q.width = 4)
    (hv : q.read s.cfg s.regs = n.toNat) :
    exec (.rdreg idx) s = .next { s with sent := s.sent ++ [.value
      [n.extractLsb' 0 8, n.extractLsb' 8 8, n.extractLsb' 16 8, n.extractLsb' 24 8]] } := by
  rw [exec_rdreg_of_register hq, Register.snapshot, hw, hv, littleEndian_count]

theorem exec_rdreg_of_unassigned (hq : registerAt s.cfg idx = none) :
    exec (.rdreg idx) s = .next { s with sent := s.sent ++ [.badOperand 0x04#8] } := by
  rw [execRdreg_eq, hq]
  rfl

theorem modeByte_eq (mode : ValidationMode) :
    modeByte mode = if mode = .crossB then 0x00#8 else 0x01#8 := by
  cases mode <;> rfl

/-- Before the first processed line every diagnostic register reads 0: the invariant says so (R24, R175). -/
theorem exec_rdreg_diag_of_invalid (hinv : s.Inv) (hvalid : s.regs.diagValid = false)
    (hidx : idx = 0x01#8 ∨ idx = 0x02#8 ∨ idx = 0x03#8 ∨ (0x40 ≤ idx.toNat ∧ idx.toNat < 0x40 + s.cfg.nSum)) :
    exec (.rdreg idx) s = .next { s with sent := s.sent ++ [.value [0x00#8]] } := by
  obtain ⟨hseq, hsum, hcs, hcs2⟩ := hinv.consistent.diagUnset hvalid
  rcases hidx with rfl | rfl | rfl | ⟨hlow, hhigh⟩
  · exact exec_rdreg_of_byte rfl rfl (congrArg BitVec.toNat hsum)
  · exact exec_rdreg_of_byte rfl rfl (congrArg BitVec.toNat hcs)
  · exact exec_rdreg_of_byte rfl rfl (congrArg BitVec.toNat hcs2)
  · exact exec_rdreg_of_byte (registerAt_diagSeq hlow hhigh) rfl (by simp [Register.read, hseq])

/-- Settles O29: for each index the register it selects, read as a byte or as a counter; `CFG_RECLEN` alone is no
byte in the model, and its low byte is answered. -/
theorem rdregReadsEveryRegister : Obligations.RdregReadsEveryRegister := by
  refine ⟨fun idx rest => rfl, fun s => ?_, fun s i hlegal hi => ?_,
    fun s idx h => exec_rdreg_of_unassigned (registerAt_unassigned h), fun s idx => exec_rdreg_diag_of_invalid⟩
  · have mode := exec_rdreg_of_byte (s := s) (idx := 0x0C#8) rfl rfl (congrArg BitVec.toNat (modeByte_eq _))
    have recordLen := exec_rdreg_of_register (s := s) (idx := 0x08#8) rfl
    exact ⟨exec_rdreg_of_byte rfl rfl rfl, exec_rdreg_of_byte rfl rfl rfl, exec_rdreg_of_byte rfl rfl rfl,
      exec_rdreg_of_byte rfl rfl rfl, exec_rdreg_of_byte rfl rfl rfl, exec_rdreg_of_count rfl rfl rfl,
      exec_rdreg_of_count rfl rfl rfl, recordLen, exec_rdreg_of_byte rfl rfl rfl,
      exec_rdreg_of_byte rfl rfl rfl, exec_rdreg_of_byte rfl rfl rfl, mode, exec_rdreg_of_byte rfl rfl rfl⟩
  · exact exec_rdreg_of_byte (registerAt_diagSeqBase_add hlegal hi) rfl rfl

end Sys2Proof.Machine
end

section
/-! What `ABORT` changes for a command (60_exceptions.md R216). `LINE` and `FINISH` test `PHASE` and are refused. Of
the other commands only a read of `STATUS` sees `PHASE`: every other query gives one answer in all phases, and
`RESET` leads to the same elements from all of them. -/

namespace Sys2Proof.Machine

open Sys2Proof

theorem exec_line_of_phase_ne_run {c : List Byte} {s : State} (hp : s.regs.phase ≠ .run) :
    exec (.line c) s = .next { s with sent := s.sent ++ [.ignored] } := by
  rcases execLine_cases c s with ⟨-, hx⟩ | ⟨hrun, -⟩ | ⟨_, hrun, -⟩ | ⟨_, -, hrun, -⟩ | ⟨_, -, hrun, -⟩
  · exact hx
  all_goals exact absurd hrun hp

/-- `STATUS` has one index (R32). -/
theorem eq_zero_of_registerAt_eq_status {cfg : Config} {idx : Byte} (h : registerAt cfg idx = some .status) :
    idx = 0x00#8 := by
  by_cases hge : 0x0E ≤ idx.toNat
  · rw [registerAt_of_ge hge] at h
    split at h <;> simp at h
  · unfold registerAt at h
    split at h
    case h_1 hidx => exact BitVec.eq_of_toNat_eq hidx
    case h_14 => split at h <;> simp at h
    all_goals simp at h

/-- No register but `STATUS` shows `PHASE` (R30). -/
theorem snapshot_phase_of_ne_status (cfg : Config) (e : Elements) (p : Phase) {q : Register} (h : q ≠ .status) :
    q.snapshot cfg { e with phase := p } = q.snapshot cfg e := by
  cases q with
  | status => exact absurd rfl h
  | _ => rfl

/-- A query other than the read of `STATUS` gives one answer in all phases. -/
theorem exec_query_answer_in_phase {i : Instr} (s : State) (p : Phase)
    (hq : (∃ idx, i = .rdreg idx) ∨ (∃ b, i = .rsum b) ∨ (∃ v, i = .csa v) ∨ (∃ v, i = .csb v))
    (hstatus : i ≠ .rdreg 0x00#8) :
    ∃ r, exec i s = .next (s.respond r) ∧
      exec i { s with regs := { s.regs with phase := p } } =
        .next (State.respond { s with regs := { s.regs with phase := p } } r) := by
  rcases hq with ⟨idx, rfl⟩ | ⟨b, rfl⟩ | ⟨v, rfl⟩ | ⟨v, rfl⟩
  · cases hreg : registerAt s.cfg idx with
    | none => exact ⟨_, exec_rdreg_of_unassigned hreg, exec_rdreg_of_unassigned hreg⟩
    | some q =>
      have hne : q ≠ .status := by
        rintro rfl
        exact hstatus (congrArg Instr.rdreg (eq_zero_of_registerAt_eq_status hreg))
      refine ⟨_, exec_rdreg_of_register hreg, ?_⟩
      rw [← snapshot_phase_of_ne_status s.cfg s.regs p hne]
      exact exec_rdreg_of_register hreg
  · exact ⟨_, execRsum_eq b s, execRsum_eq b _⟩
  · exact ⟨_, execCsa_eq v s, execCsa_eq v _⟩
  · exact ⟨_, execCsb_eq v s, execCsb_eq v _⟩

/-- The commands of R75: apart from the three that may write an element, all are queries. -/
theorem query_of_ne {i : Instr} (hline : ∀ c, i ≠ .line c) (hfinish : i ≠ .finish) (hreset : i ≠ .reset) :
    (∃ idx, i = .rdreg idx) ∨ (∃ b, i = .rsum b) ∨ (∃ v, i = .csa v) ∨ (∃ v, i = .csb v) := by
  cases i with
  | line c => exact absurd rfl (hline c)
  | finish => exact absurd rfl hfinish
  | reset => exact absurd rfl hreset
  | rdreg idx => exact .inl ⟨idx, rfl⟩
  | rsum b => exact .inr (.inl ⟨b, rfl⟩)
  | csa v => exact .inr (.inr (.inl ⟨v, rfl⟩))
  | csb v => exact .inr (.inr (.inr ⟨v, rfl⟩))

theorem sent_of_exec_reset {s t : State} (h : exec .reset s = .next t) : t.sent = s.sent ++ [.ok] := by
  rw [execReset_eq, Host.Outcome.next.injEq] at h
  rw [← h]

/-- Settles O46: the refusals of `LINE` and `FINISH`, the read of `STATUS` in each phase, and for the other commands
`RESET` or a query that does not see `PHASE`. -/
theorem abortRefusesLinesAndFinish : Obligations.AbortRefusesLinesAndFinish := by
  intro s habort
  refine ⟨fun c => exec_line_of_phase_ne_run (by simp [habort]), (finishEndsTheInput.2 s).2.2 habort,
    fun p => ⟨_, exec_rdreg_of_byte rfl rfl rfl, rfl, rfl⟩, fun i t u hline hfinish hstatus ht hu => ?_⟩
  by_cases hreset : i = .reset
  · subst hreset
    exact ⟨by rw [sent_of_exec_reset ht, sent_of_exec_reset hu], absurd rfl,
      fun _ => by rw [regs_of_exec_reset ht, regs_of_exec_reset hu]⟩
  · have hquery := query_of_ne hline hfinish hreset
    obtain ⟨r, hs, hrun⟩ := exec_query_answer_in_phase s .run hquery hstatus
    obtain rfl : s.respond r = t := by simpa [hs] using ht
    obtain rfl := Host.Outcome.next.inj (hrun.symm.trans hu)
    exact ⟨rfl, fun _ => rfl, fun h => absurd h hreset⟩

end Sys2Proof.Machine
end

section
/-! An ended run (70_reset_and_hazards.md R249): outside `RUN` the two commands that test `PHASE` leave the elements
as they are, so `RESET` and the hardware reset are the only steps that write an element. -/

namespace Sys2Proof.Machine

open Sys2Proof

variable {s t : State}

theorem runEnded_iff : s.runEnded = true ↔ s.regs.phase ≠ .run := by
  simp [State.runEnded]

theorem runEnded_of_regs_eq (h : t.regs = s.regs) : t.runEnded = s.runEnded := by
  rw [State.runEnded, State.runEnded, h]

theorem runEnded_of_regs_eq_reset {cfg : Config} (h : t.regs = Elements.reset cfg) : t.runEnded = false := by
  rw [State.runEnded, h]
  rfl

/-- Outside `RUN`, no command but `RESET` changes an element (R172, R173, R174). -/
theorem regs_of_exec_ne_reset_of_ne_run {i : Instr} (hp : s.regs.phase ≠ .run) (hreset : i ≠ .reset)
    (h : exec i s = .next t) : t.regs = s.regs := by
  by_cases hline : ∃ c, i = .line c
  · obtain ⟨c, rfl⟩ := hline
    rw [exec_line_of_phase_ne_run hp, Host.Outcome.next.injEq] at h
    rw [← h]
  by_cases hfinish : i = .finish
  · subst hfinish
    exact regs_of_exec_finish_of_ne_run hp h
  · exact regs_of_exec_query (query_of_ne (fun c hc => hline ⟨c, hc⟩) hfinish hreset) h

/-- Outside `RUN`, a step leaves every element or is one of the two resets (R217, R240). -/
theorem regs_of_step_of_ne_run (hp : s.regs.phase ≠ .run) (h : step s = .next t) :
    t.regs = s.regs ∨ (t.regs = Elements.reset s.cfg ∧
      ((∃ rest, decode s.port = .command .reset rest) ∨ decode s.port = .incomplete)) := by
  rcases step_cases h with ⟨i, rest, hd, hx⟩ | ⟨op, rest, -, rfl⟩ | ⟨bytes, more, hd, -, rfl⟩
  · by_cases hreset : i = .reset
    · subst hreset
      exact .inr ⟨regs_of_exec_reset (s := { s with port := rest }) hx, .inl ⟨rest, hd⟩⟩
    · exact .inl (regs_of_exec_ne_reset_of_ne_run (s := { s with port := rest }) hp hreset hx)
  · exact .inl rfl
  · exact .inr ⟨rfl, .inr hd⟩

/-- A new output record means that the run had not ended (R151). -/
theorem sentRecords_of_step_of_ne_run (hp : s.regs.phase ≠ .run) (h : step s = .next t) :
    t.sentRecords = s.sentRecords := by
  by_contra hne
  obtain ⟨hrun, -⟩ := recordsComeOnlyFromAcceptedLines s t h hne
  exact hp hrun

/-- Settles O53: the records by `sentRecords_of_step_of_ne_run`, the elements by `regs_of_step_of_ne_run`; whether the
run is still ended follows from the elements. -/
theorem endedRunStaysEndedUntilReset : Obligations.EndedRunStaysEndedUntilReset := by
  intro s t hended hstep
  have hp := runEnded_iff.mp hended
  refine ⟨sentRecords_of_step_of_ne_run hp hstep, ?_⟩
  rcases regs_of_step_of_ne_run hp hstep with hkept | ⟨hreset, hcause⟩
  · exact .inl ⟨(runEnded_of_regs_eq hkept).trans hended, hkept⟩
  · exact .inr ⟨runEnded_of_regs_eq_reset hreset, hreset, hcause⟩

end Sys2Proof.Machine
end

section
/-! Encoding and decoding (30_encoding.md R75, R76). For each operand layout, what a decoder that succeeds has read;
from there the two directions of "one encoding for each command", and that later bytes are only passed on. -/

namespace Sys2Proof

variable {bs rest : List Byte} {i : Instr}

theorem decodeCounted_encodeCounted (mk : List Byte → Instr) {b : List Byte} (h : b.length < 65536)
    (rest : List Byte) : decodeCounted mk (encodeCounted b ++ rest) = .command (mk b) rest :=
  decodeCounted_complete _ _ _ _ mk (le16_low_high _ h).symm

theorem decode_encode (h : i.wf = true) (rest : List Byte) : decode (encode i ++ rest) = .command i rest := by
  cases i with
  | reset => rfl
  | line c => exact decodeCounted_encodeCounted .line (by simpa [Instr.wf, fitsLength] using h) rest
  | finish => rfl
  | rdreg idx => rfl
  | rsum b => exact decodeCounted_encodeCounted .rsum (by simpa [Instr.wf, fitsLength] using h) rest
  | csa v => simp [encode, le16_low_high _ v.isLt]
  | csb v => rfl

theorem eq_of_decodeByteOperand {mk : Byte → Instr} (h : decodeByteOperand mk bs = .command i rest) :
    ∃ v, i = mk v ∧ bs = v :: rest := by
  cases bs with
  | nil => simp at h
  | cons v tail =>
    obtain ⟨rfl, rfl⟩ : mk v = i ∧ tail = rest := by simpa using h
    exact ⟨v, rfl, rfl⟩

theorem eq_of_decodeHalfOperand {mk : Half → Instr} (h : decodeHalfOperand mk bs = .command i rest) :
    ∃ v : Half, i = mk v ∧ bs = lowByte v.toNat :: highByte v.toNat :: rest := by
  match bs, h with
  | lo :: hi :: tail, h =>
    obtain ⟨rfl, rfl⟩ : mk (BitVec.ofNat 16 (le16 lo hi)) = i ∧ tail = rest := by simpa using h
    refine ⟨_, rfl, ?_⟩
    rw [BitVec.toNat_ofNat, Nat.mod_eq_of_lt (le16_lt lo hi), lowByte_le16, highByte_le16]

theorem eq_of_decodeCounted {mk : List Byte → Instr} (h : decodeCounted mk bs = .command i rest) :
    ∃ b, i = mk b ∧ b.length < 65536 ∧ bs = encodeCounted b ++ rest := by
  match bs, h with
  | lo :: hi :: body, h =>
    by_cases hn : le16 lo hi ≤ body.length
    · obtain ⟨rfl, rfl⟩ : mk (body.take (le16 lo hi)) = i ∧ body.drop (le16 lo hi) = rest := by
        simpa [decodeCounted, hn] using h
      have hlen : (body.take (le16 lo hi)).length = le16 lo hi := List.length_take_of_le hn
      refine ⟨_, rfl, by rw [hlen]; exact le16_lt lo hi, ?_⟩
      simp [encodeCounted, hlen]
    · simp [decodeCounted, hn] at h

/-- The converse of `decode_encode`, along the opcode map. -/
theorem eq_encode_of_decode (h : decode bs = .command i rest) : i.wf = true ∧ bs = encode i ++ rest := by
  cases bs with
  | nil => simp at h
  | cons op tail =>
    rcases opcode_cases op with hop | rfl | rfl | rfl | rfl | rfl | rfl | rfl
    · simp [decode_illegal _ _ hop] at h
    · obtain ⟨rfl, rfl⟩ : Instr.reset = i ∧ tail = rest := by simpa using h
      exact ⟨rfl, rfl⟩
    · obtain ⟨b, rfl, hlen, rfl⟩ := eq_of_decodeCounted h
      exact ⟨by simpa [Instr.wf, fitsLength] using hlen, rfl⟩
    · obtain ⟨rfl, rfl⟩ : Instr.finish = i ∧ tail = rest := by simpa using h
      exact ⟨rfl, rfl⟩
    · obtain ⟨v, rfl, rfl⟩ := eq_of_decodeByteOperand h
      exact ⟨rfl, rfl⟩
    · obtain ⟨b, rfl, hlen, rfl⟩ := eq_of_decodeCounted h
      exact ⟨by simpa [Instr.wf, fitsLength] using hlen, rfl⟩
    · obtain ⟨v, rfl, rfl⟩ := eq_of_decodeHalfOperand h
      exact ⟨rfl, rfl⟩
    · obtain ⟨v, rfl, rfl⟩ := eq_of_decodeByteOperand h
      exact ⟨rfl, rfl⟩

variable {op : Byte}

theorem decodeByteOperand_ne_illegal (mk : Byte → Instr) : decodeByteOperand mk bs ≠ .illegal op rest := by
  unfold decodeByteOperand
  split <;> simp

theorem decodeHalfOperand_ne_illegal (mk : Half → Instr) : decodeHalfOperand mk bs ≠ .illegal op rest := by
  unfold decodeHalfOperand
  split <;> simp

theorem decodeCounted_ne_illegal (mk : List Byte → Instr) : decodeCounted mk bs ≠ .illegal op rest := by
  unfold decodeCounted
  split
  · split <;> simp
  · simp

/-- That an opcode is illegal does not depend on the bytes behind it (R78). -/
theorem opcode_of_decode_illegal (h : decode bs = .illegal op rest) : op.toNat = 0 ∨ 8 ≤ op.toNat := by
  rw [eq_cons_of_decode_illegal h] at h
  rcases opcode_cases op with hop | rfl | rfl | rfl | rfl | rfl | rfl | rfl
  · exact hop
  · simp at h
  · exact absurd h (decodeCounted_ne_illegal _)
  · simp at h
  · exact absurd h (decodeByteOperand_ne_illegal _)
  · exact absurd h (decodeCounted_ne_illegal _)
  · exact absurd h (decodeHalfOperand_ne_illegal _)
  · exact absurd h (decodeByteOperand_ne_illegal _)

/-- Settles O1: for the counted commands by the length field, for `CSA` by its two bytes. -/
theorem decodeOfEncodeGivesTheCommand : Obligations.DecodeOfEncodeGivesTheCommand :=
  fun _ rest hwf => decode_encode hwf rest

/-- Settles O2: what the decoder of the opcode's layout has read is the command's encoding. -/
theorem decodedCommandWasEncoded : Obligations.DecodedCommandWasEncoded :=
  fun _ _ _ => eq_encode_of_decode

/-- Settles O4: the stream is a command's encoding and a rest, and `decode_encode` holds for every rest; an illegal
opcode is illegal before every rest. -/
theorem laterBytesDoNotChangeADecodedCommand : Obligations.LaterBytesDoNotChangeADecodedCommand := by
  intro bs more rest
  refine ⟨fun i h => ?_, fun op h => ?_⟩
  · obtain ⟨hwf, rfl⟩ := eq_encode_of_decode h
    rw [List.append_assoc]
    exact decode_encode hwf (rest ++ more)
  · rw [eq_cons_of_decode_illegal h]
    exact decode_illegal op (rest ++ more) (opcode_of_decode_illegal h)

/-- Settles O5: the opcode map read at seven written words, one for each command. -/
theorem writtenWordsDecode : Obligations.WrittenWordsDecode :=
  ⟨rfl, rfl, rfl, rfl, rfl, rfl, rfl⟩

end Sys2Proof
end

section
/-! The effect of a step (43_commands.md R170, R172; 30_encoding.md R78; 70_reset_and_hazards.md R240): `step_cases`
names what was on the port, and the equation of each command says what it does. Put together they leave seven
effects on the elements and the responses, so that a statement about every step is a statement about seven cases. -/

namespace Sys2Proof.Machine

open Sys2Proof

/-- A response that changes no element by itself: all but the four that `LINE` alone gives in `RUN` (R81, R172). -/
def Response.quiet : Response → Bool
  | .ok | .ignored | .value _ | .illegalCmd _ | .badOperand _ => true
  | .skipped | .emitted _ | .mismatch _ _ _ | .badHex _ => false

variable {r : Response}

theorem Response.record_of_quiet (h : r.quiet = true) : r.record = none := by
  cases r <;> simp_all [Response.quiet, Response.record]

theorem Response.fatal_of_quiet (h : r.quiet = true) : r.fatal = false := by
  cases r <;> simp_all [Response.quiet, Response.fatal]

theorem Response.code_of_quiet (h : r.quiet = true) : r.code ≠ 0x01#8 ∧ r.code ≠ 0x02#8 := by
  cases r <;> simp_all [Response.quiet, Response.code]

/-- From s to t one response r has been sent, and the elements have become e. -/
structure Answered (s t : State) (e : Elements) (r : Response) : Prop where
  cfg : t.cfg = s.cfg
  regs : t.regs = e
  sent : t.sent = s.sent ++ [r]
  mark : t.sentAtReset = s.sentAtReset

section answered

variable {s t : State} {e : Elements}

theorem Answered.phase (h : Answered s t e r) : t.regs.phase = e.phase := by rw [h.regs]

theorem Answered.abortCause (h : Answered s t e r) : t.regs.abortCause = e.abortCause := by rw [h.regs]

theorem Answered.badPos (h : Answered s t e r) : t.regs.badPos = e.badPos := by rw [h.regs]

end answered

/-- A reset event stands next on the port: the command, or a hardware reset behind no complete command. -/
def ResetNext (s : State) : Prop := (∃ rest, decode s.port = .command .reset rest) ∨ decode s.port = .incomplete

/-- From s to t a reset event has acted, and has sent these responses: the command answers `OK`, a hardware reset that
was pending answers nothing (R171, R240). -/
structure ResetDone (s t : State) (responses : List Response) : Prop where
  event : ((∃ rest, decode s.port = .command .reset rest) ∧ responses = [.ok]) ∨
    (decode s.port = .incomplete ∧ s.pendingResets ≠ [] ∧ responses = [])
  cfg : t.cfg = s.cfg
  regs : t.regs = Elements.reset s.cfg
  sent : t.sent = s.sent ++ responses
  mark : t.sentAtReset = s.sent.length

/-- The diagnostic registers with what the engine gives for a line (R24 to R26). -/
def Elements.withDiag (e : Elements) (x : EngineResult) : Elements :=
  { e with diagValid := true, diagSeq := x.seq, diagSum := x.sum, diagCs := x.cs, diagCs2 := x.cs2 }

/-- The effects of a step from s to t. -/
inductive StepEffect (s t : State) : Prop
  /-- an illegal opcode, a query, or a command that `PHASE` refuses -/
  | quiet (r : Response) (hnext : ¬ResetNext s) (hr : r.quiet = true) (ha : Answered s t s.regs r)
  /-- `FINISH` in `RUN` (R174) -/
  | finish (rest : List Byte) (hd : decode s.port = .command .finish rest) (hrun : s.regs.phase = .run)
      (ha : Answered s t { s.regs with phase := .finished } .ok)
  /-- a line of another length (R212) -/
  | skip (c rest : List Byte) (hd : decode s.port = .command (.line c) rest) (hrun : s.regs.phase = .run)
      (hl : c.length ≠ s.cfg.recordLen)
      (ha : Answered s t { s.regs with skipCount := s.regs.skipCount + 1#32 } .skipped)
  /-- a line with a payload character that is no hex digit (R214) -/
  | badHex (c rest : List Byte) (k : Nat) (hd : decode s.port = .command (.line c) rest)
      (hrun : s.regs.phase = .run) (hl : c.length = s.cfg.recordLen) (hk : hexcheck s.cfg c = some k)
      (ha : Answered s t { s.regs with phase := .abort, abortCause := .badHex, badPos := BitVec.ofNat 8 k }
        (.badHex (BitVec.ofNat 8 k)))
  /-- a line whose checksums disagree (R213) -/
  | mismatch (c rest d : List Byte) (hd : decode s.port = .command (.line c) rest) (hrun : s.regs.phase = .run)
      (hc : decodeRecord s.cfg c = .data d) (hlen : d.length = s.cfg.nData)
      (hagree : (engine s.cfg d).cs ≠ (engine s.cfg d).cs2)
      (ha : Answered s t { s.regs.withDiag (engine s.cfg d) with phase := .abort, abortCause := .mismatch }
        (.mismatch (engine s.cfg d).sum (engine s.cfg d).cs (engine s.cfg d).cs2))
  /-- an accepted line (R150, R151) -/
  | emit (c rest d : List Byte) (hd : decode s.port = .command (.line c) rest) (hrun : s.regs.phase = .run)
      (hc : decodeRecord s.cfg c = .data d) (hlen : d.length = s.cfg.nData)
      (hagree : (engine s.cfg d).cs = (engine s.cfg d).cs2)
      (ha : Answered s t { s.regs.withDiag (engine s.cfg d) with emitCount := s.regs.emitCount + 1#32 }
        (.emitted (emit s.cfg d (engine s.cfg d).cs)))
  /-- `RESET` or a hardware reset (R171, R240) -/
  | reset (responses : List Response) (h : ResetDone s t responses)

variable {s t : State} {rest : List Byte}

theorem resetNext_iff_of_command {i : Instr} (hd : decode s.port = .command i rest) :
    ResetNext s ↔ i = .reset := by
  simp [ResetNext, hd]

theorem not_resetNext_of_command {i : Instr} (hd : decode s.port = .command i rest) (hi : i ≠ .reset) :
    ¬ResetNext s := by
  rwa [resetNext_iff_of_command hd]

theorem not_resetNext_of_illegal {op : Byte} (hd : decode s.port = .illegal op rest) : ¬ResetNext s := by
  simp [ResetNext, hd]

theorem exec_query_quiet {i : Instr} (s : State)
    (hq : (∃ idx, i = .rdreg idx) ∨ (∃ b, i = .rsum b) ∨ (∃ v, i = .csa v) ∨ (∃ v, i = .csb v)) :
    ∃ r, r.quiet = true ∧ exec i s = .next (s.respond r) := by
  rcases hq with ⟨idx, rfl⟩ | ⟨b, rfl⟩ | ⟨v, rfl⟩ | ⟨v, rfl⟩
  · exact ⟨_, by cases registerAt s.cfg idx <;> rfl, execRdreg_eq idx s⟩
  · exact ⟨_, by split <;> rfl, execRsum_eq b s⟩
  · exact ⟨_, by split <;> rfl, execCsa_eq v s⟩
  · exact ⟨_, rfl, execCsb_eq v s⟩

theorem stepEffect_of_query {i : Instr} (hd : decode s.port = .command i rest) (hline : ∀ c, i ≠ .line c)
    (hfinish : i ≠ .finish) (hreset : i ≠ .reset) (hx : exec i { s with port := rest } = .next t) :
    StepEffect s t := by
  obtain ⟨r, hr, hs⟩ := exec_query_quiet { s with port := rest } (query_of_ne hline hfinish hreset)
  rw [hx, Host.Outcome.next.injEq] at hs
  subst hs
  exact .quiet r (not_resetNext_of_command hd hreset) hr ⟨rfl, rfl, rfl, rfl⟩

theorem stepEffect_of_finish (hd : decode s.port = .command .finish rest)
    (hx : exec .finish { s with port := rest } = .next t) : StepEffect s t := by
  by_cases hrun : s.regs.phase = .run
  · rw [execFinish_eq, if_pos hrun, if_neg (by simp [hrun]), Host.Outcome.next.injEq] at hx
    subst hx
    exact .finish rest hd hrun ⟨rfl, rfl, rfl, rfl⟩
  · rw [execFinish_eq, if_neg hrun, Host.Outcome.next.injEq] at hx
    subst hx
    exact .quiet _ (not_resetNext_of_command hd (by simp)) (by split <;> rfl) ⟨rfl, rfl, rfl, rfl⟩

theorem stepEffect_of_line {c : List Byte} (hd : decode s.port = .command (.line c) rest)
    (hx : exec (.line c) { s with port := rest } = .next t) : StepEffect s t := by
  rcases execLine_cases c { s with port := rest } with ⟨-, hs⟩ | ⟨hrun, -, hl, hs⟩ | ⟨k, hrun, -, hl, hk, hs⟩ |
    ⟨e, rfl, hrun, hc, hl, -, hagree, hs⟩ | ⟨e, rfl, hrun, hc, hl, -, hagree, hs⟩
  all_goals
    rw [hx, Host.Outcome.next.injEq] at hs
    subst hs
  · exact .quiet _ (not_resetNext_of_command hd (by simp)) rfl ⟨rfl, rfl, rfl, rfl⟩
  · exact .skip c rest hd hrun hl ⟨rfl, rfl, rfl, rfl⟩
  · exact .badHex c rest k hd hrun hl hk ⟨rfl, rfl, rfl, rfl⟩
  · refine .mismatch c rest _ hd hrun hc (toBytes_length _ _ hl) ?_ ⟨rfl, rfl, rfl, rfl⟩
    rw [← Bool.not_eq_true, engine_agree] at hagree
    exact hagree
  · exact .emit c rest _ hd hrun hc (toBytes_length _ _ hl) ((engine_agree _ _).mp hagree) ⟨rfl, rfl, rfl, rfl⟩

/-- Every step has one of the seven effects. -/
theorem stepEffect (h : step s = .next t) : StepEffect s t := by
  rcases step_cases h with ⟨i, rest, hd, hx⟩ | ⟨op, rest, hd, rfl⟩ | ⟨bytes, more, hd, hp, rfl⟩
  · cases i with
    | reset =>
      obtain rfl := Host.Outcome.next.inj ((execReset_eq _).symm.trans hx)
      exact .reset [.ok] ⟨.inl ⟨⟨rest, hd⟩, rfl⟩, rfl, rfl, rfl, rfl⟩
    | line c => exact stepEffect_of_line hd hx
    | finish => exact stepEffect_of_finish hd hx
    | _ => exact stepEffect_of_query hd (by simp) (by simp) (by simp) hx
  · exact .quiet (.illegalCmd op) (not_resetNext_of_illegal hd) rfl ⟨rfl, rfl, rfl, rfl⟩
  · exact .reset [] ⟨.inr ⟨hd, by simp [hp], rfl⟩, rfl, rfl, (List.append_nil _).symm, rfl⟩

variable {responses : List Response}

theorem ResetDone.resetNext (h : ResetDone s t responses) : ResetNext s :=
  h.event.imp And.left And.left

/-- A step is a reset, or it answers once and keeps the mark. -/
theorem answered_or_resetDone (h : step s = .next t) :
    (¬ResetNext s ∧ ∃ e r, Answered s t e r) ∨ (ResetNext s ∧ ∃ responses, ResetDone s t responses) := by
  cases stepEffect h with
  | reset responses hreset => exact .inr ⟨hreset.resetNext, responses, hreset⟩
  | quiet r hnext _ ha => exact .inl ⟨hnext, _, _, ha⟩
  | finish _ hd _ ha | skip _ _ hd _ _ ha | badHex _ _ _ hd _ _ _ ha | mismatch _ _ _ hd _ _ _ _ ha
  | emit _ _ _ hd _ _ _ _ ha => exact .inl ⟨not_resetNext_of_command hd (by simp), _, _, ha⟩

end Sys2Proof.Machine
end

section
/-! The invariant (10_state.md R22 to R29). The reset values are consistent, and so are the elements after each of the
effects that change some; the record count follows the answer. So every step keeps the invariant. -/

namespace Sys2Proof.Machine

open Sys2Proof

variable {cfg : Config} {e : Elements} {d : List Byte}

theorem consistent_reset (cfg : Config) : (Elements.reset cfg).Consistent cfg where
  seqLength := List.length_replicate
  causeIffAbort := by simp
  badPosRange := by simp
  badPosZero _ := rfl
  diagUnset _ := ⟨rfl, rfl, rfl, rfl⟩
  diagSet := by simp
  mismatchDiffers := by simp
  agreesOtherwise := by simp
  emittedValid := by simp

theorem Elements.Consistent.abortCause_of_run (h : e.Consistent cfg) (hrun : e.phase = .run) :
    e.abortCause = .none := by
  by_contra hcause
  simp [h.causeIffAbort.mpr hcause] at hrun

/-- The diagnostic registers alone make their consistency. -/
theorem DiagConsistent.frame {e' : Elements} (h : DiagConsistent cfg e) (hseq : e'.diagSeq = e.diagSeq)
    (hsum : e'.diagSum = e.diagSum) (hcs : e'.diagCs = e.diagCs) (hcs2 : e'.diagCs2 = e.diagCs2) :
    DiagConsistent cfg e' where
  header := by rw [hseq, h.header]
  sum := by rw [hsum, hseq, h.sum]
  cs := by rw [hcs, hsum, h.cs]
  cs2 := by rw [hcs2, hsum, h.cs2]

theorem diagConsistent_withDiag (cfg : Config) (e : Elements) (d : List Byte) :
    DiagConsistent cfg (e.withDiag (engine cfg d)) :=
  ⟨rfl, rfl, rfl, rfl⟩

theorem Elements.Consistent.after_finish (h : e.Consistent cfg) (hrun : e.phase = .run) :
    Elements.Consistent cfg { e with phase := .finished } where
  seqLength := h.seqLength
  causeIffAbort := by simp [h.abortCause_of_run hrun]
  badPosRange := h.badPosRange
  badPosZero := h.badPosZero
  diagUnset := h.diagUnset
  diagSet hvalid := (h.diagSet hvalid).frame rfl rfl rfl rfl
  mismatchDiffers := h.mismatchDiffers
  agreesOtherwise := h.agreesOtherwise
  emittedValid := h.emittedValid

theorem Elements.Consistent.after_skip (h : e.Consistent cfg) (n : Count) :
    Elements.Consistent cfg { e with skipCount := n } where
  seqLength := h.seqLength
  causeIffAbort := h.causeIffAbort
  badPosRange := h.badPosRange
  badPosZero := h.badPosZero
  diagUnset := h.diagUnset
  diagSet hvalid := (h.diagSet hvalid).frame rfl rfl rfl rfl
  mismatchDiffers := h.mismatchDiffers
  agreesOtherwise := h.agreesOtherwise
  emittedValid := h.emittedValid

theorem Elements.Consistent.after_badHex (h : e.Consistent cfg) (hrun : e.phase = .run) {k : Byte}
    (hlow : prefixLen ≤ k.toNat) (hhigh : k.toNat + suffixLen < cfg.recordLen) :
    Elements.Consistent cfg { e with phase := .abort, abortCause := .badHex, badPos := k } where
  seqLength := h.seqLength
  causeIffAbort := by simp
  badPosRange _ := ⟨hlow, hhigh⟩
  badPosZero := by simp
  diagUnset := h.diagUnset
  diagSet hvalid := (h.diagSet hvalid).frame rfl rfl rfl rfl
  mismatchDiffers := by simp
  agreesOtherwise _ := h.agreesOtherwise (by simp [h.abortCause_of_run hrun])
  emittedValid := h.emittedValid

theorem seqLength_withDiag (hlen : d.length = cfg.nData) :
    (e.withDiag (engine cfg d)).diagSeq.length = cfg.nSum := by
  simp only [Elements.withDiag, engine_seq, List.length_cons, hlen, Config.nSum]
  omega

theorem Elements.Consistent.after_mismatch (h : e.Consistent cfg) (hrun : e.phase = .run)
    (hlen : d.length = cfg.nData) (hagree : (engine cfg d).cs ≠ (engine cfg d).cs2) :
    Elements.Consistent cfg { e.withDiag (engine cfg d) with phase := .abort, abortCause := .mismatch } where
  seqLength := seqLength_withDiag (e := e) hlen
  causeIffAbort := by simp
  badPosRange := by simp
  badPosZero _ := h.badPosZero (by simp [h.abortCause_of_run hrun])
  diagUnset := by simp [Elements.withDiag]
  diagSet _ := (diagConsistent_withDiag cfg e d).frame rfl rfl rfl rfl
  mismatchDiffers _ := ⟨rfl, hagree⟩
  agreesOtherwise := by simp
  emittedValid _ := rfl

theorem Elements.Consistent.after_emit (h : e.Consistent cfg) (hrun : e.phase = .run) (n : Count)
    (hlen : d.length = cfg.nData) (hagree : (engine cfg d).cs = (engine cfg d).cs2) :
    Elements.Consistent cfg { e.withDiag (engine cfg d) with emitCount := n } where
  seqLength := seqLength_withDiag (e := e) hlen
  causeIffAbort := h.causeIffAbort
  badPosRange := h.badPosRange
  badPosZero := h.badPosZero
  diagUnset := by simp [Elements.withDiag]
  diagSet _ := (diagConsistent_withDiag cfg e d).frame rfl rfl rfl rfl
  mismatchDiffers hcause := by simp [Elements.withDiag, h.abortCause_of_run hrun] at hcause
  agreesOtherwise _ _ := hagree
  emittedValid _ := rfl

/-- The hex check answers a payload position (R29, R104). -/
theorem hexcheck_range {c : List Byte} {k : Nat} (hlegal : cfg.legal = true) (hl : c.length = cfg.recordLen)
    (hk : hexcheck cfg c = some k) :
    9 ≤ k ∧ k ≤ cfg.recordLen - 3 ∧ (BitVec.ofNat 8 k).toNat = k := by
  obtain ⟨h9, hlast, -⟩ := ((hexcheckFindsTheFirstBadCharacter cfg c hlegal hl).1 k).mp hk
  simp only [Config.legal, Bool.and_eq_true, decide_eq_true_eq] at hlegal
  refine ⟨h9, hlast, ?_⟩
  rw [BitVec.toNat_ofNat, Nat.mod_eq_of_lt (by omega)]

variable {s t : State} {r : Response}

/-- A response keeps the invariant if the new elements are consistent and its record, if any, is counted. -/
theorem State.Inv.of_answered (hinv : s.Inv) (ha : Answered s t e r) (hcons : e.Consistent s.cfg)
    (hcount : e.emitCount = s.regs.emitCount + BitVec.ofNat 32 r.record.toList.length) : t.Inv where
  legal := by rw [ha.cfg, hinv.legal]
  consistent := by rwa [ha.cfg, ha.regs]
  markSent := by
    rw [ha.mark, ha.sent, List.length_append]
    exact Nat.le_add_right_of_le hinv.markSent
  counted := by
    rw [ha.regs, hcount, hinv.counted, recordsSinceReset_append ha.sent ha.mark hinv.markSent,
      List.length_append, BitVec.ofNat_add]

/-- Behind the mark of a reset stands at most the answer of `RESET`, which carries no record. -/
theorem ResetDone.recordsSinceReset_eq_nil {responses : List Response} (h : ResetDone s t responses) :
    t.recordsSinceReset = [] := by
  rw [recordsSinceReset_of_mark h.sent h.mark]
  rcases h.event with ⟨-, rfl⟩ | ⟨-, -, rfl⟩ <;> rfl

theorem inv_of_regs_eq_reset (hlegal : t.cfg.legal = true) (hregs : t.regs = Elements.reset t.cfg)
    (hmark : t.sentAtReset ≤ t.sent.length) (hrecords : t.recordsSinceReset = []) : t.Inv where
  legal := hlegal
  consistent := by
    rw [hregs]
    exact consistent_reset _
  markSent := hmark
  counted := by
    rw [hregs, hrecords]
    rfl

/-- Settles O54: the seven effects, each with its lemma. -/
theorem stepKeepsTheInvariant : Obligations.StepKeepsTheInvariant := by
  intro s t hinv hstep
  have hcons := hinv.consistent
  cases stepEffect hstep with
  | quiet r _ hr ha => exact hinv.of_answered ha hcons (by simp [Response.record_of_quiet hr])
  | finish rest _ hrun ha => exact hinv.of_answered ha (hcons.after_finish hrun) (by simp [Response.record])
  | skip c rest _ _ _ ha => exact hinv.of_answered ha (hcons.after_skip _) (by simp [Response.record])
  | badHex c rest k _ hrun hl hk ha =>
    obtain ⟨h9, hlast, hbyte⟩ := hexcheck_range hinv.legal hl hk
    refine hinv.of_answered ha (hcons.after_badHex hrun ?_ ?_) (by simp [Response.record])
    · rwa [hbyte]
    · rw [hbyte, suffixLen]
      omega
  | mismatch c rest d _ hrun _ hlen hagree ha =>
    exact hinv.of_answered ha (hcons.after_mismatch hrun hlen hagree) (by simp [Response.record, Elements.withDiag])
  | emit c rest d _ hrun _ hlen hagree ha =>
    exact hinv.of_answered ha (hcons.after_emit hrun _ hlen hagree) rfl
  | reset responses hreset =>
    refine inv_of_regs_eq_reset (by rw [hreset.cfg, hinv.legal]) (by rw [hreset.regs, hreset.cfg]) ?_
      hreset.recordsSinceReset_eq_nil
    rw [hreset.mark, hreset.sent, List.length_append]
    exact Nat.le_add_right _ _

/-- Settles O55: the reference parameters are legal, and nothing has been sent. -/
theorem resetMeetsTheInvariant : Obligations.ResetMeetsTheInvariant :=
  inv_of_regs_eq_reset rfl rfl le_rfl rfl

/-- The registers of a mismatch abort hold two checksums of one sum, and in `CROSS_B` mode both are derivation B. -/
theorem mode_of_diagCs_ne (hdiag : DiagConsistent cfg e) (hne : e.diagCs ≠ e.diagCs2) : cfg.mode = .asBuilt := by
  cases hmode : cfg.mode with
  | asBuilt => rfl
  | crossB =>
    refine absurd ?_ hne
    rw [hdiag.cs, hdiag.cs2, derivationA_succ_eq_derivationB, comparisonValue, hmode]

/-- Settles O56: the invariant gives two different checksums of the recorded sum; at sum 0 they are 0xFF and
`CSA_ZERO`. -/
theorem mismatchMeansAsBuilt : Obligations.MismatchMeansAsBuilt := by
  intro s hinv hcause
  obtain ⟨hvalid, hne⟩ := hinv.consistent.mismatchDiffers hcause
  have hdiag := hinv.consistent.diagSet hvalid
  have hmode := mode_of_diagCs_ne hdiag hne
  refine ⟨hmode, ?_⟩
  by_contra hzero
  push Not at hzero
  obtain ⟨hsum, hcsa⟩ := hzero
  refine hne ?_
  rw [hdiag.cs, hdiag.cs2, derivationA_succ_eq_derivationB, comparisonValue, hmode, hsum]
  exact hcsa.symm

end Sys2Proof.Machine
end

section
/-! What moves each element over a step (10_state.md R22 to R29): each statement is read off the seven effects of a
step. -/

namespace Sys2Proof.Machine

open Sys2Proof

variable {s t : State} {c d : List Byte}

/-- Settles O11: a step that is no hardware reset adds its one response. -/
theorem outputOnlyGrowsAndParametersStay : Obligations.OutputOnlyGrowsAndParametersStay := by
  intro s t hstep
  rcases answered_or_resetDone hstep with ⟨-, e, r, ha⟩ | ⟨-, responses, hreset⟩
  · exact ⟨ha.cfg, .inl ⟨r, ha.sent, sentRecords_append ha.sent⟩⟩
  · refine ⟨hreset.cfg, ?_⟩
    rcases hreset.event with ⟨-, rfl⟩ | ⟨hd, -, rfl⟩
    · exact .inl ⟨.ok, hreset.sent, sentRecords_append hreset.sent⟩
    · exact .inr ⟨hreset.sent.trans (List.append_nil _), hd⟩

/-- Settles O41: `FINISH`, the two aborts and the resets move `PHASE`. -/
theorem phaseMovesOnlyAsListed : Obligations.PhaseMovesOnlyAsListed := by
  refine ⟨⟨rfl, rfl, rfl, fun p => by cases p <;> decide, rfl⟩, fun s t hstep => ?_⟩
  cases stepEffect hstep with
  | quiet _ _ _ ha | skip _ _ _ _ _ ha | emit _ _ _ _ _ _ _ _ ha => exact .inl ha.phase
  | finish rest hd hrun ha => exact .inr (.inr (.inl ⟨hrun, ha.phase, rest, hd⟩))
  | badHex c rest _ hd hrun _ _ ha | mismatch c rest _ hd hrun _ _ _ ha =>
    exact .inr (.inl ⟨hrun, ha.phase, ⟨c, rest, hd⟩, _, ha.sent, rfl⟩)
  | reset responses hreset =>
    exact .inr (.inr (.inr ⟨congrArg Elements.phase hreset.regs, hreset.resetNext⟩))

/-- Settles O42: the two aborts write their cause, whose code is that of their answer; the resets clear it. -/
theorem abortCauseIsWrittenOnlyByTheAbort : Obligations.AbortCauseIsWrittenOnlyByTheAbort := by
  refine ⟨⟨rfl, rfl, rfl, rfl⟩, fun s t hstep => ?_⟩
  cases stepEffect hstep with
  | quiet _ _ _ ha | finish _ _ _ ha | skip _ _ _ _ _ ha | emit _ _ _ _ _ _ _ _ ha => exact .inl ha.abortCause
  | badHex c rest _ hd hrun _ _ ha | mismatch c rest _ hd hrun _ _ _ ha =>
    refine .inr (.inl ⟨hrun, ha.phase, ⟨c, rest, hd⟩, _, ha.sent, rfl, ?_⟩)
    rw [ha.regs]
    rfl
  | reset responses hreset => exact .inr (.inr ⟨congrArg Elements.abortCause hreset.regs, hreset.resetNext⟩)

/-- Only a line that reaches the engine writes a diagnostic register; only a reset clears one. -/
theorem diag_of_step (h : step s = .next t) :
    (t.regs.diagValid = s.regs.diagValid ∧ t.regs.diagSeq = s.regs.diagSeq ∧ t.regs.diagSum = s.regs.diagSum ∧
      t.regs.diagCs = s.regs.diagCs ∧ t.regs.diagCs2 = s.regs.diagCs2) ∨
    (s.regs.phase = .run ∧
      ∃ c d rest, decode s.port = .command (.line c) rest ∧ decodeRecord s.cfg c = .data d) ∨
    (t.regs = Elements.reset s.cfg ∧ ResetNext s) := by
  cases stepEffect h with
  | mismatch c rest d hd hrun hc _ _ _ => exact .inr (.inl ⟨hrun, c, d, rest, hd, hc⟩)
  | emit c rest d hd hrun hc _ _ _ => exact .inr (.inl ⟨hrun, c, d, rest, hd, hc⟩)
  | reset responses hreset => exact .inr (.inr ⟨hreset.regs, hreset.resetNext⟩)
  | quiet _ _ _ ha | finish _ _ _ ha | skip _ _ _ _ _ ha | badHex _ _ _ _ _ _ _ ha =>
    left
    rw [ha.regs]
    exact ⟨rfl, rfl, rfl, rfl, rfl⟩

theorem exec_line_of_run (c : List Byte) (hrun : s.regs.phase = .run) :
    exec (.line c) s = .next (processLine s c) := by
  simp only [exec, execLine, hrun]

theorem exec_line_of_data (hrun : s.regs.phase = .run) (hc : decodeRecord s.cfg c = .data d) :
    exec (.line c) s = .next (finishLine s d) := by
  rw [exec_line_of_run c hrun, processLine, hc]

theorem finishLine_of_agree (h : (engine s.cfg d).agree = true) :
    finishLine s d = ((s.recordDiag (engine s.cfg d)).countEmit).respond
      (.emitted (emit s.cfg d (engine s.cfg d).cs)) := by
  simp only [finishLine, h, if_true]

theorem finishLine_of_not_agree (h : (engine s.cfg d).agree ≠ true) :
    finishLine s d = (s.recordDiag (engine s.cfg d)).abort
      (.mismatch (engine s.cfg d).sum (engine s.cfg d).cs (engine s.cfg d).cs2) := by
  simp only [finishLine, h, Bool.false_eq_true, if_false]

/-- Whatever the verdict, the diagnostics hold the line and the answer carries its checksum (R134). -/
theorem diag_of_finishLine (s : State) (d : List Byte) :
    (finishLine s d).regs.diagValid = true ∧ (finishLine s d).regs.diagSeq = [s.cfg.hdr0, s.cfg.hdr1] ++ d ∧
      (finishLine s d).regs.diagSum = (engine s.cfg d).sum ∧ (finishLine s d).regs.diagCs = (engine s.cfg d).cs ∧
      (finishLine s d).regs.diagCs2 = (engine s.cfg d).cs2 ∧
      ((finishLine s d).sent = s.sent ++ [.emitted (emit s.cfg d (engine s.cfg d).cs)] ∨
        (finishLine s d).sent =
          s.sent ++ [.mismatch (engine s.cfg d).sum (engine s.cfg d).cs (engine s.cfg d).cs2]) := by
  by_cases hagree : (engine s.cfg d).agree = true
  · rw [finishLine_of_agree hagree]
    exact ⟨rfl, rfl, rfl, rfl, rfl, .inl rfl⟩
  · rw [finishLine_of_not_agree hagree]
    exact ⟨rfl, rfl, rfl, rfl, rfl, .inr rfl⟩

/-- Settles O43: a line that reaches the engine by `diag_of_finishLine`, every other step by `diag_of_step`. -/
theorem diagnosticsHoldTheLastProcessedLine : Obligations.DiagnosticsHoldTheLastProcessedLine := by
  refine ⟨rfl, fun s t hstep => ⟨fun c d rest hd hrun hc => ?_, diag_of_step hstep⟩⟩
  obtain rfl : finishLine { s with port := rest } d = t := by
    simpa [step_of_decode_command hd, exec_line_of_data (s := { s with port := rest }) hrun hc] using hstep
  exact diag_of_finishLine { s with port := rest } d

/-- A counter that one of two answers increments: modulo 2^32, by 1 or by 0 (R27, R28). -/
theorem count_add_toNat (n : Count) (p : Prop) [Decidable p] :
    (if p then n + 1#32 else n).toNat = (n.toNat + if p then 1 else 0) % 2 ^ 32 := by
  split
  · exact BitVec.toNat_add n 1#32
  · exact (Nat.mod_eq_of_lt n.isLt).symm

/-- What an answer counts, for every step that is no reset. -/
theorem counters_of_step (h : step s = .next t) (hnext : ¬ResetNext s) :
    ∃ r, t.sent = s.sent ++ [r] ∧
      t.regs.emitCount = (if r.code = 0x02#8 then s.regs.emitCount + 1#32 else s.regs.emitCount) ∧
      t.regs.skipCount = (if r.code = 0x01#8 then s.regs.skipCount + 1#32 else s.regs.skipCount) ∧
      (r.code = 0x02#8 ∨ r.code = 0x01#8 → ∃ c rest, decode s.port = .command (.line c) rest) := by
  cases stepEffect h with
  | reset responses hreset => exact absurd hreset.resetNext hnext
  | quiet r _ hr ha =>
    obtain ⟨hskip, hemit⟩ := Response.code_of_quiet hr
    refine ⟨r, ha.sent, ?_, ?_, by simp [hskip, hemit]⟩
    · rw [ha.regs, if_neg hemit]
    · rw [ha.regs, if_neg hskip]
  | finish _ _ _ ha =>
    refine ⟨_, ha.sent, ?_, ?_, by simp [Response.code]⟩ <;> rw [ha.regs] <;> rfl
  | skip c rest hd _ _ ha | badHex c rest _ hd _ _ _ ha | mismatch c rest _ hd _ _ _ _ ha
  | emit c rest _ hd _ _ _ _ ha =>
    refine ⟨_, ha.sent, ?_, ?_, fun _ => ⟨c, rest, hd⟩⟩ <;> rw [ha.regs] <;> rfl

/-- Settles O44: a reset by its elements, every other step by `counters_of_step`. -/
theorem countersCountTheirAnswers : Obligations.CountersCountTheirAnswers := by
  intro s t hstep
  refine ⟨fun hnext => ?_, fun hnext => ?_⟩
  · rcases answered_or_resetDone hstep with ⟨hnot, -⟩ | ⟨-, responses, hreset⟩
    · exact absurd hnext hnot
    · rw [hreset.regs]
      exact ⟨rfl, rfl⟩
  · obtain ⟨r, hsent, hemit, hskip, hline⟩ := counters_of_step hstep hnext
    exact ⟨r, hsent, by rw [hemit, count_add_toNat], by rw [hskip, count_add_toNat], hline⟩

/-- Settles O45: the `BAD_HEX` abort writes what the hex check answers, a payload position. -/
theorem badPosIsWrittenOnlyByBadHex : Obligations.BadPosIsWrittenOnlyByBadHex := by
  refine ⟨rfl, fun s t hlegal hstep => ?_⟩
  cases stepEffect hstep with
  | badHex c rest k hd _ hl hk ha =>
    obtain ⟨h9, hlast, hbyte⟩ := hexcheck_range hlegal hl hk
    refine .inr (.inl ⟨c, rest, k, hd, hk, ?_, ?_, ?_, h9, hlast⟩)
    · rw [ha.sent, ha.regs]
    · rw [ha.regs]
    · rw [ha.regs, hbyte]
  | reset responses hreset => exact .inr (.inr ⟨congrArg Elements.badPos hreset.regs, hreset.resetNext⟩)
  | quiet _ _ _ ha | finish _ _ _ ha | skip _ _ _ _ _ ha | mismatch _ _ _ _ _ _ _ _ ha
  | emit _ _ _ _ _ _ _ _ ha => exact .inl ha.badPos

/-- Settles O47: every effect that writes an element but the resets needs `RUN`. -/
theorem abortIsLeftOnlyByReset : Obligations.AbortIsLeftOnlyByReset := by
  intro s t habort hstep
  cases stepEffect hstep with
  | quiet r _ hr ha => exact .inl ⟨ha.regs, r, ha.sent, Response.fatal_of_quiet hr⟩
  | reset responses hreset =>
    refine .inr ⟨hreset.regs, hreset.event.imp And.left fun ⟨hd, hpending, _⟩ => ⟨hd, hpending⟩⟩
  | finish _ _ hrun _ | skip _ _ _ hrun _ _ | badHex _ _ _ _ hrun _ _ _ | mismatch _ _ _ _ hrun _ _ _ _
  | emit _ _ _ _ hrun _ _ _ _ => simp [habort] at hrun

end Sys2Proof.Machine
end

section
/-! The step by what stands on the port (43_commands.md R170, 30_encoding.md R78, R82, R83): an equation for each of the
four outcomes of `State.fetch` (that of a command is `step_of_decode_command`). -/

namespace Sys2Proof.Machine

open Sys2Proof

variable {s t : State}

theorem step_of_decode_illegal {op : Byte} {rest : List Byte} (hd : decode s.port = .illegal op rest) :
    step s = .next { s with port := rest, sent := s.sent ++ [.illegalCmd op] } := by
  simp only [step, State.fetch, hd]
  rfl

theorem step_of_hardwareReset {bytes : List Byte} {more : List (List Byte)} (hd : decode s.port = .incomplete)
    (hp : s.pendingResets = bytes :: more) :
    step s = .next { s with
      regs := Elements.reset s.cfg, port := bytes, pendingResets := more, sentAtReset := s.sent.length } := by
  simp only [step, State.fetch, hd, hp]
  rfl

theorem step_stops (hd : decode s.port = .incomplete) (hp : s.pendingResets = []) : ∃ f, step s = .fault f := by
  simp only [step, State.fetch, hd, hp]
  exact ⟨_, rfl⟩

/-- Settles O6, which is `step_of_decode_command`. -/
theorem stepRunsTheDecodedCommand : Obligations.StepRunsTheDecodedCommand :=
  fun _ _ _ => step_of_decode_command

/-- Settles O7: such an opcode is illegal before every rest. -/
theorem illegalOpcodeTakesOneByteAndAnswers : Obligations.IllegalOpcodeTakesOneByteAndAnswers := by
  intro s op rest hport hop
  refine ⟨step_of_decode_illegal ?_, rfl⟩
  rw [hport]
  exact decode_illegal op rest (hop.imp_left (congrArg BitVec.toNat))

/-- Settles O9: `Elements.reset` lists the values; the length that is missing makes the command incomplete. -/
theorem hardwareResetDiscardsAnIncompleteCommand : Obligations.HardwareResetDiscardsAnIncompleteCommand := by
  rintro s bytes more fresh rfl
  exact ⟨execReset_eq s, fun hl hp => step_of_hardwareReset ((decode_eq_incomplete_iff _).mpr hl) hp⟩

/-- Settles O27: the effect is `execReset_eq`; in `ABORT` every other command keeps the elements. -/
theorem resetCommandRestoresEveryElement : Obligations.ResetCommandRestoresEveryElement := by
  refine ⟨decode_reset, execReset_eq, fun i s t habort hx hleft => ?_, sideEffectsAndIdempotency.2.2.1,
    fun s t bytes more hport hp hx => ?_⟩
  · by_contra hreset
    rw [regs_of_exec_ne_reset_of_ne_run (by simp [habort]) hreset hx] at hleft
    exact hleft habort
  · exact ⟨_, step_of_hardwareReset (by rw [hport, decode_nil]) hp, (regs_of_exec_reset hx).symm⟩

/-- Settles O34, which is `exec_line_of_phase_ne_run`. -/
theorem lineOutsideRunIsIgnored : Obligations.LineOutsideRunIsIgnored :=
  fun _ _ => exec_line_of_phase_ne_run

/-- No answer of `LINE` is `BAD_OPERAND` (R79). -/
theorem line_ne_badOperand {c : List Byte} (h : exec (.line c) s = .next t) (op : Byte) :
    t.sent ≠ s.sent ++ [.badOperand op] := by
  rcases execLine_cases c s with ⟨-, hx⟩ | ⟨-, -, -, hx⟩ | ⟨_, -, -, -, -, hx⟩ | ⟨_, -, -, -, -, -, -, hx⟩ |
    ⟨_, -, -, -, -, -, -, hx⟩
  all_goals
    obtain rfl := Host.Outcome.next.inj (hx.symm.trans h)
    simp

/-- Settles O14: each command is all there, and its equation gives `BAD_OPERAND` outside the domain. -/
theorem badOperandChangesNothing : Obligations.BadOperandChangesNothing := by
  refine ⟨fun s idx rest hport hidx => ?_, fun s lo hi rest hport hv => ?_, fun s rest hport => ?_, fun _ => rfl,
    fun c s t op h => line_ne_badOperand h op⟩
  · rw [step_of_decode_command (i := .rdreg idx) (rest := rest) (by rw [hport]; rfl)]
    exact exec_rdreg_of_unassigned (registerAt_unassigned hidx)
  · rw [step_of_decode_command (i := .csa (BitVec.ofNat 16 (le16 lo hi))) (rest := rest) (by rw [hport]; rfl)]
    refine derivationAAtTheEndsOfItsDomain.2.2 _ _ ?_
    rwa [BitVec.toNat_ofNat, Nat.mod_eq_of_lt (le16_lt lo hi)]
  · rw [step_of_decode_command (i := .rsum []) (rest := rest) (by rw [hport]; rfl)]
    exact execRsum_eq [] _

end Sys2Proof.Machine
end

section
/-! The output of a run and its end (70_reset_and_hazards.md R249): the records follow the answers, and of the seven
effects three leave `RUN`. -/

namespace Sys2Proof.Machine

open Sys2Proof

variable {s t : State} {e : Elements} {r : Response}

/-- Settles O51: a reset by its mark, every other step by its one answer. -/
theorem recordsSinceResetGrowByEachRecord : Obligations.RecordsSinceResetGrowByEachRecord := by
  intro s t hinv hstep
  rcases answered_or_resetDone hstep with ⟨hnot, e, r, ha⟩ | ⟨hnext, responses, hreset⟩
  · exact ⟨fun hnext => absurd hnext hnot,
      fun _ => ⟨r, ha.sent, recordsSinceReset_append ha.sent ha.mark hinv.markSent⟩⟩
  · exact ⟨fun _ => hreset.recordsSinceReset_eq_nil, absurd hnext⟩

/-- A response without a record leaves the records of the run, wherever the mark stands. -/
theorem Answered.recordsSinceReset_eq (ha : Answered s t e r) (hr : r.record = none) :
    t.recordsSinceReset = s.recordsSinceReset := by
  have hsingle : ∀ k, ([r].drop k).filterMap Response.record = []
    | 0 => by simp [hr]
    | _ + 1 => by simp
  rw [State.recordsSinceReset, ha.sent, ha.mark, List.drop_append, List.filterMap_append, hsingle,
    List.append_nil, State.recordsSinceReset]

theorem runResult_ne_none_iff : t.runResult ≠ none ↔ t.regs.phase ≠ .run := by
  rw [← runEnded_iff, State.runResult]
  split <;> simp_all

theorem Response.record_of_fatal (h : r.fatal = true) : r.record = none := by
  cases r <;> simp_all [Response.fatal, Response.record]

theorem Response.code_of_fatal (h : r.fatal = true) : r.code = 0x03#8 ∨ r.code = 0x04#8 := by
  cases r <;> simp_all [Response.fatal, Response.code]

/-- The steps that end a run: `FINISH`, and the line that aborts it. Neither counts or emits anything. -/
theorem run_end_cases (h : step s = .next t) (hended : t.regs.phase ≠ .run) (hrun : s.regs.phase = .run) :
    ∃ e r, Answered s t e r ∧ r.record = none ∧ e.emitCount = s.regs.emitCount ∧ e.skipCount = s.regs.skipCount ∧
      (((∃ rest, decode s.port = .command .finish rest) ∧ r = .ok ∧ e.phase = .finished) ∨
        (r.fatal = true ∧ e.phase = .abort)) := by
  cases stepEffect h with
  | quiet _ _ _ ha | skip _ _ _ _ _ ha | emit _ _ _ _ _ _ _ _ ha => exact absurd (ha.phase.trans hrun) hended
  | reset responses hreset => exact absurd (congrArg Elements.phase hreset.regs) hended
  | finish rest hd _ ha => exact ⟨_, _, ha, rfl, rfl, rfl, .inl ⟨⟨rest, hd⟩, rfl, rfl⟩⟩
  | badHex _ _ _ _ _ _ _ ha | mismatch _ _ _ _ _ _ _ _ ha => exact ⟨_, _, ha, rfl, rfl, rfl, .inr ⟨rfl, rfl⟩⟩

/-- Settles O52: that a run has ended is that `PHASE` is not `RUN`, which a step from `RUN` reaches only by
`run_end_cases`. -/
theorem runEndsWithItsResult : Obligations.RunEndsWithItsResult := by
  intro s hrun
  refine ⟨?_, step_stops, fun t hstep => ⟨⟨fun hresult => ?_, ?_⟩, fun result hresult => ?_⟩⟩
  · rw [← not_ne_iff, runResult_ne_none_iff]
    exact not_not_intro hrun
  · obtain ⟨e, r, ha, -, -, -, ⟨hfinish, rfl, hphase⟩ | ⟨hfatal, hphase⟩⟩ :=
      run_end_cases hstep (runResult_ne_none_iff.mp hresult) hrun
    · exact .inl ⟨hfinish, ha.sent, ha.phase.trans hphase⟩
    · exact .inr ⟨ha.phase.trans hphase, r, ha.sent, Response.code_of_fatal hfatal⟩
  · rw [runResult_ne_none_iff]
    rintro (⟨-, -, hphase⟩ | ⟨hphase, -⟩) <;> simp [hphase]
  · have hended : t.regs.phase ≠ .run := runResult_ne_none_iff.mp (by simp [hresult])
    obtain ⟨e, r, ha, hrecord, hemit, hskip, -⟩ := run_end_cases hstep hended hrun
    rw [State.runResult, if_pos (runEnded_iff.mpr hended), Option.some.injEq] at hresult
    rw [← hresult, ha.recordsSinceReset_eq hrecord, ha.regs, hemit, hskip]

end Sys2Proof.Machine
end

section
/-! Progress (70_reset_and_hazards.md R248): a step takes at least one byte or one hardware reset off the streams, so
after as many steps as there are of both the block waits. -/

namespace Sys2Proof.Machine

open Sys2Proof

variable {s t : State}

/-- No command touches the parameters or the streams. -/
theorem frame_of_exec {i : Instr} (h : exec i s = .next t) :
    t.cfg = s.cfg ∧ t.port = s.port ∧ t.pendingResets = s.pendingResets := by
  suffices ∃ u, exec i s = .next u ∧ u.cfg = s.cfg ∧ u.port = s.port ∧ u.pendingResets = s.pendingResets by
    obtain ⟨u, hx, hu⟩ := this
    obtain rfl : u = t := by simpa [hx] using h
    exact hu
  cases i with
  | reset => exact ⟨_, execReset_eq s, rfl, rfl, rfl⟩
  | line c =>
    rcases execLine_cases c s with ⟨-, hx⟩ | ⟨-, -, -, hx⟩ | ⟨_, -, -, -, -, hx⟩ | ⟨_, -, -, -, -, -, -, hx⟩ |
      ⟨_, -, -, -, -, -, -, hx⟩ <;> exact ⟨_, hx, rfl, rfl, rfl⟩
  | finish => exact ⟨_, execFinish_eq s, rfl, rfl, rfl⟩
  | rdreg idx => exact ⟨_, execRdreg_eq idx s, rfl, rfl, rfl⟩
  | rsum b => exact ⟨_, execRsum_eq b s, rfl, rfl, rfl⟩
  | csa v => exact ⟨_, execCsa_eq v s, rfl, rfl, rfl⟩
  | csb v => exact ⟨_, execCsb_eq v s, rfl, rfl, rfl⟩

theorem encode_length_pos (i : Instr) : 0 < (encode i).length := by
  cases i <;> simp [encode]

/-- What is still to be taken: every byte, and every hardware reset. -/
def State.backlog (s : State) : Nat :=
  s.port.length + (s.pendingResets.map fun bytes => bytes.length + 1).sum

theorem backlog_lt_of_step (h : step s = .next t) : t.backlog < s.backlog := by
  rcases step_cases h with ⟨i, rest, hd, hx⟩ | ⟨op, rest, hd, rfl⟩ | ⟨bytes, more, -, hp, rfl⟩
  · obtain ⟨-, hbytes⟩ := eq_encode_of_decode hd
    obtain ⟨-, hport, hpending⟩ := frame_of_exec hx
    have := encode_length_pos i
    simp only [State.backlog, hport, hpending, hbytes, List.length_append]
    omega
  · simp [State.backlog, eq_cons_of_decode_illegal hd]
  · simp only [State.backlog, hp, List.map_cons, List.sum_cons]
    omega

/-- A step goes on or stops; it is never refused. -/
theorem step_next_or_fault (s : State) : (∃ t, step s = .next t) ∨ ∃ f, step s = .fault f := by
  cases hd : decode s.port with
  | command i rest =>
    obtain ⟨t, -, hx, -⟩ := exec_answersOnce i { s with port := rest }
    exact .inl ⟨t, (step_of_decode_command hd).trans hx⟩
  | illegal op rest => exact .inl ⟨_, step_of_decode_illegal hd⟩
  | incomplete =>
    cases hp : s.pendingResets with
    | nil => exact .inr (step_stops hd hp)
    | cons bytes more => exact .inl ⟨_, step_of_hardwareReset hd hp⟩

/-- Within as many steps as its backlog counts, the block stops with no hardware reset pending. -/
theorem run_reaches_stop (s : State) : ∃ k t f,
    k ≤ s.backlog ∧ Host.Core.run Sys2Proof.core k s = .next t ∧ step t = .fault f ∧ t.pendingResets = [] := by
  rcases step_next_or_fault s with ⟨u, hu⟩ | ⟨f, hf⟩
  · have hlt := backlog_lt_of_step hu
    obtain ⟨k, t, f, hk, hrun, hstop⟩ := run_reaches_stop u
    exact ⟨k + 1, t, f, by omega, (run_succ hu k).trans hrun, hstop⟩
  · exact ⟨0, s, f, Nat.zero_le _, rfl, hf, (step_fault_cases hf).2⟩
termination_by s.backlog

/-- Settles O10: the backlog is the bound it asks for. -/
theorem everyStreamIsConsumed : Obligations.EveryStreamIsConsumed :=
  run_reaches_stop

end Sys2Proof.Machine
end

section
/-! The outcomes of a line in `RUN` by its characters (43_commands.md R172): the decoder's result by the hex check, the
engine's result in each mode by the sum, and then the one case of `LINE` that is left. -/

namespace Sys2Proof.Machine

open Sys2Proof

variable {s : State} {cfg : Config} {c d : List Byte}

theorem decodeRecord_of_hexcheck_some {k : Nat} (hl : c.length = cfg.recordLen) (hk : hexcheck cfg c = some k) :
    decodeRecord cfg c = .badHex k := by
  simp only [decodeRecord, (gate_iff cfg _).mpr hl, hk, if_true]

theorem decodeRecord_of_hexcheck_none (hl : c.length = cfg.recordLen) (hk : hexcheck cfg c = none) :
    decodeRecord cfg c = .data (toBytes cfg c) := by
  simp only [decodeRecord, (gate_iff cfg _).mpr hl, hk, if_true]

/-- Settles O36: the hex check answers k, and the line aborts. -/
theorem lineWithABadCharacterAborts : Obligations.LineWithABadCharacterAborts := by
  intro c s k hlegal hrun hl h9 hlast hbad hbefore
  have hk : hexcheck s.cfg c = some k :=
    ((hexcheckFindsTheFirstBadCharacter s.cfg c hlegal hl).1 k).mpr ⟨h9, hlast, hbad, hbefore⟩
  rw [exec_line_of_run c hrun, processLine, decodeRecord_of_hexcheck_some hl hk]
  rfl

/-- A line of hex characters decodes to the bytes of R105. -/
theorem decodeRecord_of_hex (hlegal : cfg.legal = true) (hl : c.length = cfg.recordLen)
    (hhex : ∀ j, 9 ≤ j → j ≤ cfg.recordLen - 3 → isHex (c.getD j 0#8) = true) :
    decodeRecord cfg c = .data ((List.range cfg.nData).map fun i =>
      BitVec.ofNat 8 (16 * hexval (c.getD (9 + 2 * i) 0#8) + hexval (c.getD (9 + 2 * i + 1) 0#8))) := by
  rw [decodeRecord_of_hexcheck_none hl ((hexcheck_eq_none_iff hl).mpr hhex),
    dataBytesComeFromCharacterPairs.1 cfg c hlegal hl]

theorem engine_sum_eq (cfg : Config) (d : List Byte) :
    (engine cfg d).sum = BitVec.ofNat 8 (cfg.hdr0.toNat + cfg.hdr1.toNat + (d.map BitVec.toNat).sum) := by
  rw [engine_sum, sumMod256, exactSum_cons, exactSum_cons, Nat.add_assoc]
  rfl

/-- The engine's result in full, from its sum and its two checksums. -/
theorem engine_eq (cfg : Config) (d : List Byte) : engine cfg d =
    { seq := [cfg.hdr0, cfg.hdr1] ++ d, sum := (engine cfg d).sum, cs := (engine cfg d).sum ^^^ 0xFF#8,
      cs2 := (engine cfg d).cs2, agree := (engine cfg d).agree } := by
  have hcs : (engine cfg d).cs = (engine cfg d).sum ^^^ 0xFF#8 := engine_cs_eq_derivationB cfg d
  rw [← hcs]
  rfl

/-- Settles O37: both checksums are derivation B of the sum, so they agree. -/
theorem crossBLineIsEmitted : Obligations.CrossBLineIsEmitted := by
  intro c s hlegal hmode hrun hl hhex d sum hd hsum
  have hcs2 : (engine s.cfg d).cs2 = (engine s.cfg d).sum ^^^ 0xFF#8 := engine_cs2_of_crossB d hmode
  have hdata : decodeRecord s.cfg c = .data d := hd ▸ decodeRecord_of_hex hlegal hl hhex
  rw [exec_line_of_data hrun hdata, finishLine_of_agree (engine_agree_of_crossB d hmode), engine_eq, hcs2,
    engine_sum_eq, ← hsum]
  rfl

/-- The second checksum in `AS_BUILT` mode (R129, R131). -/
theorem engine_cs2_eq_of_asBuilt (hmode : cfg.mode = .asBuilt) : (engine cfg d).cs2 =
    if (engine cfg d).sum = 0#8 then cfg.csaZero else BitVec.ofNat 8 (256 - (engine cfg d).sum.toNat) := by
  rw [engine_cs2_of_asBuilt d hmode]
  split
  case isTrue hzero => rw [hzero]; exact derivationA_zero cfg
  case isFalse hne =>
    have hpos : (engine cfg d).sum.toNat ≠ 0 := fun h => hne (BitVec.eq_of_toNat_eq h)
    exact derivationA_eq_ofNat cfg (by omega) (engine cfg d).sum.isLt.le

/-- Settles O38: agreement by `engine_agree_iff_of_asBuilt`, and the line's outcome by the verdict. -/
theorem asBuiltLineAbortsUnlessTheSumIsZero : Obligations.AsBuiltLineAbortsUnlessTheSumIsZero := by
  intro c s hlegal hmode hrun hl hhex d sum cs2 hd hsum hcs2
  have hdata : decodeRecord s.cfg c = .data d := hd ▸ decodeRecord_of_hex hlegal hl hhex
  have hagree := engine_agree_iff_of_asBuilt (d := d) hmode
  rw [← engine_sum_eq] at hsum
  rw [hsum, ← engine_cs2_eq_of_asBuilt hmode] at hcs2
  subst hsum hcs2
  refine ⟨fun hne => ?_, fun hzero hcsa => ?_⟩
  · rw [exec_line_of_data hrun hdata, finishLine_of_not_agree (hagree.not.mpr hne), engine_eq]
    rfl
  · have ha := hagree.mpr ⟨hzero, hcsa⟩
    rw [exec_line_of_data hrun hdata, finishLine_of_agree ha, engine_eq, hzero,
      engine_cs2_eq_of_asBuilt hmode, if_pos hzero, hcsa]
    rfl

end Sys2Proof.Machine
end

section
/-! The open parameter `CSA_ZERO` (92_eei_decisions.md D7): derivation A reads it at 0 alone, the engine reads no
derivation A at 0 in `CROSS_B` mode, and one register shows it. So with another value of it, every other command does
the same. -/

namespace Sys2Proof

/-- The same parameters with another value of `CSA_ZERO`. -/
def Config.withCsaZero (cfg : Config) (z : Byte) : Config := { cfg with csaZero := z }

end Sys2Proof

namespace Sys2Proof.Machine

open Sys2Proof

/-- The same state under these parameters. -/
def State.withCsaZero (s : State) (z : Byte) : State := { s with cfg := s.cfg.withCsaZero z }

variable {s t : State} {cfg : Config} (z : Byte)

theorem derivationA_withCsaZero {v : Nat} (hlow : 1 ≤ v) (hhigh : v ≤ 256) :
    derivationA (cfg.withCsaZero z) v = derivationA cfg v := by
  rw [derivationA_eq_ofNat _ hlow hhigh, derivationA_eq_ofNat _ hlow hhigh]

theorem engine_withCsaZero (hmode : cfg.mode = .crossB) (d : List Byte) :
    engine (cfg.withCsaZero z) d = engine cfg d := by
  have hsum : (engine (cfg.withCsaZero z) d).sum = (engine cfg d).sum := rfl
  have hcs2 : (engine (cfg.withCsaZero z) d).cs2 = (engine cfg d).cs2 := by
    rw [engine_cs2_of_crossB (cfg := cfg.withCsaZero z) d hmode, engine_cs2_of_crossB d hmode, hsum]
  rw [engine_eq, engine_eq cfg, hsum, hcs2, engine_agree_of_crossB (cfg := cfg.withCsaZero z) d hmode,
    engine_agree_of_crossB d hmode]
  rfl

theorem finishLine_withCsaZero (hmode : s.cfg.mode = .crossB) (d : List Byte) :
    finishLine (s.withCsaZero z) d = (finishLine s d).withCsaZero z := by
  have hagree := engine_agree_of_crossB d hmode
  have hengine : engine (s.withCsaZero z).cfg d = engine s.cfg d := engine_withCsaZero z hmode d
  rw [finishLine_of_agree hagree, finishLine_of_agree (hengine ▸ hagree), hengine]
  rfl

theorem processLine_withCsaZero (hmode : s.cfg.mode = .crossB) (c : List Byte) :
    processLine (s.withCsaZero z) c = (processLine s c).withCsaZero z := by
  have hsame : decodeRecord (s.withCsaZero z).cfg c = decodeRecord s.cfg c := rfl
  cases hc : decodeRecord s.cfg c with
  | skip | badHex k =>
    simp only [processLine, hsame, hc]
    rfl
  | data d => simp only [processLine, hsame, hc, finishLine_withCsaZero z hmode]

theorem exec_line_withCsaZero (hmode : s.cfg.mode = .crossB) {c : List Byte} (h : exec (.line c) s = .next t) :
    exec (.line c) (s.withCsaZero z) = .next (t.withCsaZero z) := by
  by_cases hrun : s.regs.phase = .run
  · obtain rfl := Host.Outcome.next.inj ((exec_line_of_run c hrun).symm.trans h)
    rw [exec_line_of_run (s := s.withCsaZero z) c hrun, processLine_withCsaZero z hmode]
  · obtain rfl := Host.Outcome.next.inj ((exec_line_of_phase_ne_run hrun).symm.trans h)
    exact exec_line_of_phase_ne_run hrun

/-- One index shows `CSA_ZERO` (R32). -/
theorem eq_of_registerAt_eq_cfgCsaz {idx : Byte} (h : registerAt cfg idx = some .cfgCsaz) : idx = 0x0D#8 := by
  by_cases hge : 0x0E ≤ idx.toNat
  · rw [registerAt_of_ge hge] at h
    split at h <;> simp at h
  · unfold registerAt at h
    split at h
    case h_13 hidx => exact BitVec.eq_of_toNat_eq hidx
    case h_14 => split at h <;> simp at h
    all_goals simp at h

theorem snapshot_withCsaZero {q : Register} (e : Elements) (h : q ≠ .cfgCsaz) :
    q.snapshot (cfg.withCsaZero z) e = q.snapshot cfg e := by
  cases q with
  | cfgCsaz => exact absurd rfl h
  | _ => rfl

theorem exec_rdreg_withCsaZero {idx : Byte} (hidx : idx ≠ 0x0D#8) (h : exec (.rdreg idx) s = .next t) :
    exec (.rdreg idx) (s.withCsaZero z) = .next (t.withCsaZero z) := by
  have hsame : registerAt (s.withCsaZero z).cfg idx = registerAt s.cfg idx := rfl
  cases hreg : registerAt s.cfg idx with
  | none =>
    obtain rfl := Host.Outcome.next.inj ((exec_rdreg_of_unassigned hreg).symm.trans h)
    exact exec_rdreg_of_unassigned hreg
  | some q =>
    obtain rfl := Host.Outcome.next.inj ((exec_rdreg_of_register hreg).symm.trans h)
    have hq : q ≠ .cfgCsaz := by
      rintro rfl
      exact hidx (eq_of_registerAt_eq_cfgCsaz hreg)
    exact (exec_rdreg_of_register (hsame.trans hreg)).trans
      (congrArg (fun b => Host.Outcome.next ((s.withCsaZero z).respond (.value b)))
        (snapshot_withCsaZero z s.regs hq))

theorem exec_csa_withCsaZero {v : Half} (hv : v ≠ 0#16) (h : exec (.csa v) s = .next t) :
    exec (.csa v) (s.withCsaZero z) = .next (t.withCsaZero z) := by
  have hpos : v.toNat ≠ 0 := fun h0 => hv (BitVec.eq_of_toNat_eq h0)
  obtain rfl := Host.Outcome.next.inj ((execCsa_eq v s).symm.trans h)
  have hvalue : (if v.toNat ≤ 256 then Response.value [derivationA (s.cfg.withCsaZero z) v.toNat] else
      .badOperand 0x06#8) = if v.toNat ≤ 256 then .value [derivationA s.cfg v.toNat] else .badOperand 0x06#8 := by
    split
    case isTrue hle => rw [derivationA_withCsaZero z (by omega) hle]
    case isFalse => rfl
  rw [execCsa_eq]
  exact congrArg (fun r => Host.Outcome.next ((s.withCsaZero z).respond r)) hvalue

/-- Settles O50: each command by its equation. -/
theorem csaZeroIsSeenOnlyWhereTheSpecReadsIt : Obligations.CsaZeroIsSeenOnlyWhereTheSpecReadsIt := by
  intro i s t z hmode hcsa hrdreg h
  suffices exec i (s.withCsaZero z) = .next (t.withCsaZero z) by
    rw [State.withCsaZero, State.withCsaZero, (frame_of_exec h).1] at this
    exact this
  cases i with
  | line c => exact exec_line_withCsaZero z hmode h
  | rdreg idx => exact exec_rdreg_withCsaZero z (by simpa using hrdreg) h
  | csa v => exact exec_csa_withCsaZero z (by simpa using hcsa) h
  | reset =>
    obtain rfl := Host.Outcome.next.inj ((execReset_eq s).symm.trans h)
    exact execReset_eq (s.withCsaZero z)
  | finish =>
    obtain rfl := Host.Outcome.next.inj ((execFinish_eq s).symm.trans h)
    exact execFinish_eq (s.withCsaZero z)
  | rsum b =>
    obtain rfl := Host.Outcome.next.inj ((execRsum_eq b s).symm.trans h)
    exact execRsum_eq b (s.withCsaZero z)
  | csb v =>
    obtain rfl := Host.Outcome.next.inj ((execCsb_eq v s).symm.trans h)
    exact execCsb_eq v (s.withCsaZero z)

end Sys2Proof.Machine
end

section
/-! The response codes (30_encoding.md R81): each command's equation names its answer in each case, and the answer's
code and payload are read off. -/

namespace Sys2Proof.Machine

open Sys2Proof

variable {s t u : State} {i : Instr} {r q : Response}

/-- A command gives one answer. -/
theorem answer_unique (h : exec i s = .next t) (hr : t.sent = s.sent ++ [r]) (hu : exec i s = .next u)
    (hq : u.sent = s.sent ++ [q]) : q = r := by
  obtain rfl := Host.Outcome.next.inj (h.symm.trans hu)
  simpa using hq.symm.trans hr

/-- Settles O13: the answer of an illegal opcode, then that of each command in each of its cases. -/
theorem responseCodesComeFromTheirCommands : Obligations.ResponseCodesComeFromTheirCommands := by
  refine ⟨fun s op rest hd => ⟨_, _, step_of_decode_illegal hd, rfl, rfl, rfl⟩, fun i s t r h hr => ?_⟩
  cases i with
  | reset =>
    obtain rfl := answer_unique h hr (execReset_eq s) rfl
    simp [Response.code, Response.payload]
  | line c =>
    rcases execLine_cases c s with ⟨hp, hx⟩ | ⟨hp, -, hl, hx⟩ | ⟨k, hp, -, hl, hk, hx⟩ |
      ⟨e, rfl, hp, hc, -, -, ha, hx⟩ | ⟨e, rfl, hp, hc, -, -, ha, hx⟩
    all_goals obtain rfl := answer_unique h hr hx rfl
    · simp [Response.code, Response.payload, hp]
    · simp [Response.code, Response.payload, hp, hl]
    · simp [Response.code, Response.payload, hp, hl, hk]
    · simp [Response.code, Response.payload, hp, hc, ha]
    · rw [engine_agree] at ha
      simp [Response.code, Response.payload, hp, hc, ha]
  | finish =>
    obtain rfl := answer_unique h hr (execFinish_eq s) rfl
    by_cases hp : s.regs.phase = .abort <;> simp [Response.code, Response.payload, hp]
  | rdreg idx =>
    obtain rfl := answer_unique h hr (execRdreg_eq idx s) rfl
    cases hreg : registerAt s.cfg idx <;> simp [Response.code, Response.payload, hreg]
  | rsum b =>
    obtain rfl := answer_unique h hr (execRsum_eq b s) rfl
    by_cases hb : b = [] <;> simp [Response.code, Response.payload, hb]
  | csa v =>
    obtain rfl := answer_unique h hr (execCsa_eq v s) rfl
    by_cases hv : v.toNat ≤ 256
    · simp [Response.code, Response.payload, hv]
    · simp [Response.code, Response.payload, hv, Nat.lt_of_not_le hv]
  | csb v =>
    obtain rfl := answer_unique h hr (execCsb_eq v s) rfl
    simp [Response.code, Response.payload]

end Sys2Proof.Machine
end
